-- ==== Sys2Proof/Word.lean ====
section
/-! DEFINITION. The word types of the part (R1, R179, section 0.8): bytes, 16-byte beats, 36-bit addresses, 6-bit
link IDs and timebase values, and the plainest readings of them. -/

namespace Sys2Proof

/-- One byte. -/
abbrev Byte := BitVec 8

/-- The 16 bytes of one data transfer of the link; byte `i` is bits `8 i + 7 .. 8 i` (R179). -/
abbrev Beat := BitVec 128

/-- The byte strobes of one data transfer, bit `i` for byte `i`. -/
abbrev Strobes := BitVec 16

/-- A link address (section 0.8: 36 bits). -/
abbrev Addr := BitVec 36

/-- A transaction ID of the link (section 0.8: 6 bits). -/
abbrev BusId := BitVec 6

/-- A value of the microsecond timebase (R100). -/
abbrev Time := BitVec 32

end Sys2Proof
end

