-- ==== Sys2Proof/Syntax.lean ====
section
/-! DEFINITION. The commands of the part: one constructor of `Instr` per row of spec/opcode_table.json, with the
operands the environment supplies with that row (the side of a strobe, the address phase of a burst, the data and the
response of an answer, the arguments of a host command). -/

namespace Sys2Proof

/-- The two views, and the sides of the cab they serve (section 0.6). -/
inductive Side where
  | left
  | right
deriving DecidableEq, Repr

/-- The responses of the link. -/
inductive Resp where
  | okay
  | exokay
  | slverr
  | decerr
deriving DecidableEq, Repr

/-- The burst types of the link. -/
inductive BurstType where
  | fixed
  | incr
  | wrap
deriving DecidableEq, Repr

/-- The two address channels of each port. -/
inductive Channel where
  | write
  | read
deriving DecidableEq, Repr

/-- What an address channel carries for one burst. -/
structure AddrPhase where
  /-- transaction ID -/
  id : BusId
  /-- start address -/
  addr : Addr
  /-- beats of the burst, 1..256 -/
  len : Nat
  /-- the transfer size is `2 ^ size` bytes, `size` 0..4 -/
  size : Nat
  burst : BurstType
  /-- an exclusive access -/
  excl : Bool
deriving DecidableEq, Repr

/-- One beat of read data with its response. -/
structure RBeat where
  data : Beat
  resp : Resp
deriving DecidableEq, Repr

/-- An answer of memory to plain or control traffic: a write response, or one beat of read data. -/
inductive PlainAnswer where
  | write (id : BusId) (resp : Resp)
  | read (id : BusId) (beat : RBeat)
deriving DecidableEq, Repr

/-- The rows of spec/opcode_table.json, in its order. -/
inductive Instr where
  /-- POWER_ON_RESET: PORN is released with the straps ANC1 and ANC0 as given (R167). -/
  | powerOnReset (anc1 anc0 : Bool)
  /-- LINK_RESET: LRSTN is released with the straps as given (R165, R167). -/
  | linkReset (anc1 anc0 : Bool)
  /-- TIMEBASE_TICK (R100). -/
  | timebaseTick
  /-- PWM_WRAP (R109). -/
  | pwmWrap
  /-- CAPTURE_STROBE: a rising edge on CSL or CSR (R8). -/
  | captureStrobe (v : Side)
  /-- DISPLAY_STROBE: a rising edge on DSL or DSR (R103). -/
  | displayStrobe (v : Side)
  /-- FABRIC_WRITE_ACCEPT: a write address at the fabric port (R156). -/
  | fabricWriteAccept (a : AddrPhase)
  /-- FABRIC_READ_ACCEPT: a read address at the fabric port (R156). -/
  | fabricReadAccept (a : AddrPhase)
  /-- WRITE_DATA_BEAT: a data beat of a plain, control or refused write (R157). -/
  | writeDataBeat (data : Beat) (strb : Strobes)
  /-- CAPTURE_BEAT: a data beat of a capture write (R28). -/
  | captureBeat (data : Beat) (strb : Strobes)
  /-- FORWARDED_REQUEST_GRANT on one address channel of the memory port (R164). -/
  | forwardedRequestGrant (ch : Channel)
  /-- OWN_REQUEST_GRANT on one address channel of the memory port (R164). -/
  | ownRequestGrant (ch : Channel)
  /-- DOWNSTREAM_WRITE_RESPONSE: memory answers a development write of a view (R35). -/
  | downstreamWriteResponse (v : Side) (resp : Resp)
  /-- READ_PIECE_RETURN: all data of one view read piece of a view (R63). -/
  | readPieceReturn (v : Side) (beats : List RBeat)
  /-- VIEW_READ_RELEASE: the oldest read burst of an upstream ID, if it is a view read (R64). -/
  | viewReadRelease (id : BusId)
  /-- PLAIN_MEMORY_RESPONSE: memory answers plain or control traffic (R163). -/
  | plainMemoryResponse (ans : PlainAnswer)
  /-- HELD_RESPONSE_RELEASE: the oldest burst of an upstream ID (R162). -/
  | heldResponseRelease (ch : Channel) (id : BusId)
  /-- COMMAND_HANDOVER (R160, R174). -/
  | commandHandover
  /-- UNKNOWN_COMMAND_CODE (R174). -/
  | unknownCommandCode (code : Byte)
  /-- APPLY_SETTINGS address (R176): argument A of the record. -/
  | applySettings (addr : BitVec 64)
  /-- START_VIEW view (R17). -/
  | startView (view : Byte)
  /-- STOP_VIEW view (R18). -/
  | stopView (view : Byte)
  /-- SET_PAN view, px, py (R69). -/
  | setPan (view : Byte) (px py : BitVec 16)
  /-- PIN_FRAME view (R19). -/
  | pinFrame (view : Byte)
  /-- RELEASE_PIN view (R20). -/
  | releasePin (view : Byte)
  /-- ACK_REPORTS count (R139). -/
  | ackReports (count : BitVec 32)
  /-- CLEAR_FAULT entry (R129). -/
  | clearFault (entry : Byte)
  /-- HOLD_MODE mode (R80). -/
  | holdMode (mode : Byte)
  /-- COPY_HISTORY sector, address (R151): argument B of the record. -/
  | copyHistory (sector : Byte) (addr : BitVec 64)
  /-- CLEAR_HISTORY confirmation (R152). -/
  | clearHistory (confirmation : BitVec 32)
  /-- DETACH (R177). -/
  | detach
  /-- ANCHOR_RECORD_WRITE (R168). -/
  | anchorRecordWrite
  /-- SETTINGS_FETCH_RETURN: the 64 beats of a settings fetch (R169). -/
  | settingsFetchReturn (beats : List RBeat)
  /-- ANCHOR_RESULT_WRITE_RESPONSE (R169). -/
  | anchorResultWriteResponse (resp : Resp)
  /-- RESULT_WRITE_RESPONSE: the answer to an immediate or completion result write (R175). -/
  | resultWriteResponse (resp : Resp)
  /-- RECORD_WRITE_ISSUE (R137). -/
  | recordWriteIssue
  /-- REPORT_RECORD_WRITE_RESPONSE (R137). -/
  | reportRecordWriteResponse (resp : Resp)
  /-- STATUS_WRITE_ISSUE (R142). -/
  | statusWriteIssue
  /-- STATUS_WRITE_RESPONSE (R142). -/
  | statusWriteResponse (resp : Resp)
  /-- STORE_REQUEST_SERVE (R145). -/
  | storeRequestServe
  /-- RECORD_PROGRAM_DONE, with the outcome of the verification (R145). -/
  | recordProgramDone (ok : Bool)
  /-- HEADER_PROGRAM_DONE, with the outcome of the verification (R146). -/
  | headerProgramDone (ok : Bool)
  /-- ERASE_START (R147). -/
  | eraseStart
  /-- ERASE_SUSPEND_EFFECT (R148). -/
  | eraseSuspendEffect
  /-- ERASE_DONE, with the outcome of the verification (R147). -/
  | eraseDone (ok : Bool)
  /-- SCAN_DONE (R149). -/
  | scanDone
  /-- HISTORY_COPY_READ_DONE (R151). -/
  | historyCopyReadDone
  /-- HISTORY_COPY_WRITE_RESPONSE (R151). -/
  | historyCopyWriteResponse (resp : Resp)
  /-- PWM_CLOCK (R109). -/
  | pwmClock
deriving DecidableEq, Repr

end Sys2Proof
end

