-- ==== Sys2Proof/Decode.lean ====
section
/-! DEFINITION. The decoder. The rows of spec/opcode_table.json carry no bits: the part is a block that takes events at
its ports, and no word spells one of them (log entry 3). -/

namespace Sys2Proof

/-- The command that a word of `nbits` bits spells: none, for no row of the table has bits. -/
def decodeTableWord (_nbits _w : Nat) : Option Instr := none

end Sys2Proof
end

