-- ==== Sys2Proof/Config.lean ====
section
/-! DEFINITION. The fixed figures of the part (section 0.8) and its one source of free values. -/

namespace Sys2Proof.Config

/-- The free values of the model (log entry 7): value number `n` of the run. It has no body, so nothing can be
proved of it; `State.freeIndex` counts the values used. -/
opaque freeWord : Nat → BitVec 128

/-- Outstanding bursts accepted per direction at the fabric port (R161). -/
def maxOutstanding : Nat := 16

/-- Forwarded grants an own request can wait for (R164). -/
def ownGrantLimit : Nat := 8

/-- Entries of a glare list (R84). -/
def glareCapacity : Nat := 24

/-- The gain that leaves a pixel unchanged (R84). -/
def fullGain : Nat := 256

/-- Tiles of a frame (R43). -/
def tileCount : Nat := 128

/-- Entries of the fault table (R116). -/
def faultCount : Nat := 26

/-- Records the report ring holds (R136). -/
def ringSize : Nat := 64

/-- The status write holdoff, 1 ms, in µs (R142). -/
def statusHoldoff : Nat := 1000

/-- The time of a record or header program, µs (R143, R145). -/
def programTime : Nat := 80

/-- The erase time of a sector, µs (R147). -/
def eraseTime : Nat := 30000

/-- The erase time added at each resumption, µs (R148). -/
def resumeTime : Nat := 500

/-- Suspensions of one erase (R148). -/
def maxSuspensions : Nat := 16

/-- Usable sectors below which the store is DISABLED (R147). -/
def minUsable : Nat := 3

/-- The ID of the part's own traffic on both channels (R162). -/
def ownId : BusId := 0x3D

end Sys2Proof.Config
end

