-- ==== Sys2Proof/Machine/State.lean ====
section
/-! DEFINITION. The state of the part as plain data, the reasons a command can stop, and the state after a power-on
reset. Every field names the rule of spec/ that gives it; fields marked MODEL are the model's own (INVENTORY.md). -/

namespace Sys2Proof.Machine

/-- One value for each view (section 0.6). -/
structure Sides (α : Type) where
  left : α
  right : α
deriving DecidableEq, Repr

/-! ## Settings (chapter 11, R180) -/

/-- What a region table entry treats its addresses as (R155). -/
inductive RegionKind where
  | capture (v : Side) (initiator mask : BusId)
  | view (v : Side)
  | control
  | guard
deriving DecidableEq, Repr

/-- A used entry of the region table: `2 ^ exponent` bytes from `base` (R155). -/
structure Region where
  kind : RegionKind
  base : Addr
  exponent : Nat
deriving DecidableEq, Repr

/-- The view structural fields (R172); the slot count N is the length of `bases`. -/
structure Geometry where
  w : Nat
  h : Nat
  vw : Nat
  vh : Nat
  bases : List Addr
deriving DecidableEq, Repr

/-- The development fields of a view (R36, R172). -/
structure DevFields where
  black : Nat
  ratio : Nat
  knee : Nat
  shift : Nat
  curveA : List Nat
  curveB : List Nat
  glareThreshold : Nat
deriving DecidableEq, Repr

/-- The flip fields of a view (R66, R67, R70, R85, R111, R172). -/
structure FlipFields where
  pattern : BitVec 32
  protect : Nat
  panStepX : Nat
  panStepY : Nat
  glareMin : Nat
  slope : Nat
  gainFloor : Nat
  stepDown : Nat
  stepUp : Nat
  dayDuty : Nat
  duskDuty : Nat
  nightDuty : Nat
  blankDuty : Nat
  glareTrim : Nat
  dutyMin : Nat
  dutyMax : Nat
  blStep : Nat
  inversion : Bool
deriving DecidableEq, Repr

/-- The fault fields of a view (R51, R108). -/
structure ViewLimits where
  darkLevel : Nat
  blockedTiles : Nat
  staleLimit : Nat
  startLimit : Nat
  latencyLimit : Nat
deriving DecidableEq, Repr

/-- The settings of one view. -/
structure ViewSettings where
  geometry : Geometry
  dev : DevFields
  flip : FlipFields
  limits : ViewLimits
deriving DecidableEq, Repr

/-- The ladder fields (R75). -/
structure LadderFields where
  nightEnter : Nat
  nightExit : Nat
  duskEnter : Nat
  duskExit : Nat
  dayForce : Nat
  dwellDown : Nat
  dwellUp : Nat
deriving DecidableEq, Repr

/-- The confirm and heal counts (R123). -/
structure Counts where
  safety : Nat
  warning : Nat
  freeze : Nat
  safetyHeal : Nat
  warningHeal : Nat
deriving DecidableEq, Repr

/-- A validated settings block (R167, R172). -/
structure Settings where
  table : List (Option Region)
  reportArea : Addr
  ladder : LadderFields
  counts : Counts
  attention : Bool
  lock : Bool
  pwmDivider : Nat
  pwmPeriod : Nat
  views : Sides ViewSettings
deriving DecidableEq, Repr

/-! ## Views (chapters 1 to 4, 6 and 7) -/

/-- View states (R3, R5). -/
inductive ViewState where
  | stopped
  | starting
  | running
  | blanked
deriving DecidableEq, Repr

/-- Slot states (R4). -/
inductive SlotState where
  | free
  | filling
  | ready
  | shown
  | draining
  | pinned
deriving DecidableEq, Repr

/-- A tile record (R44). -/
structure Tile where
  lumaSum : Nat
  glareCount : Nat
deriving DecidableEq, Repr

/-- A parameter snapshot (R36); `curve` is the tone curve of the mode in force at the strobe. -/
structure Snapshot where
  black : Nat
  ratio : Nat
  knee : Nat
  shift : Nat
  curve : List Nat
  glareThreshold : Nat
deriving DecidableEq, Repr

/-- What a slot record holds of its frame (R2): absent while the slot is FREE. -/
structure Frame where
  sequence : BitVec 32
  captureTime : Time
  fillPoint : Nat
  gap : Bool
  writes : Nat
  signature : BitVec 32
  tiles : List Tile
  snapshot : Snapshot
  staleLatched : Bool
deriving DecidableEq, Repr

/-- A slot record (R2). -/
structure Slot where
  state : SlotState
  pinRequest : Bool
  base : Addr
  reads : Nat
  frame : Option Frame
deriving DecidableEq, Repr

/-- The frame in capture (R3). -/
inductive InCapture where
  | none
  | slotted (slot : Nat)
  | unslotted (sequence : Option (BitVec 32))
deriving DecidableEq, Repr

/-- The frame a capture burst is bound to (R27). -/
inductive Binding where
  | slot (slot : Nat) (sequence : BitVec 32)
  | unslotted (sequence : Option (BitVec 32))
  | unframed
  | stopped
deriving DecidableEq, Repr

/-- The open-burst record (R25). Its upstream ID and its beats left are those of the burst `tag` in `Path.writes`. -/
structure OpenBurst where
  tag : Nat
  binding : Binding
  /-- aperture offset of the next beat -/
  nextOffset : Nat
  /-- offsets of the run's first and last beat -/
  run : Option (Nat × Nat)
  /-- offset of the beat that failed the strobe check -/
  cut : Option Nat
  /-- MODEL: the developed lower half of a memory beat that waits for its upper half (R31); the inner `none` is a half
  with clear strobes -/
  half : Option (Option (BitVec 64))
  /-- MODEL: the fill point at the opening, by which R32 classifies the beats of a settled frame -/
  openFill : Nat
  /-- MODEL: the fill point of the bound frame as it last stood (R32) -/
  lastFill : Nat
deriving DecidableEq, Repr

/-- A strobe latch (R101). -/
structure Latch where
  time : Time
  awaiting : Bool
deriving DecidableEq, Repr

/-- An entry of a glare list (R84). -/
structure GlareEntry where
  tile : Nat
  count : Nat
  target : Nat
  gain : Nat
deriving DecidableEq, Repr

/-- All the state of one view: its view record (R3), slot table (R2), open-burst record (R25), strobe latches (R101),
glare list (R84), backlight channel (R110) and pending settings (R167, R173). -/
structure View where
  state : ViewState
  /-- `none` once exhausted (R7) -/
  nextSequence : Option (BitVec 32)
  capture : InCapture
  shown : Option Nat
  startTime : Time
  /-- `none` while invalid -/
  lastSignature : Option (BitVec 32)
  level : Nat
  levelValid : Bool
  pan : Nat × Nat
  panTarget : Nat × Nat
  slots : List Slot
  burst : Option OpenBurst
  captureLatch : Latch
  displayLatch : Latch
  glare : List GlareEntry
  staged : Nat
  working : Nat
  inverted : Bool
  pendingDev : Option DevFields
  pendingFlip : Option FlipFields
deriving DecidableEq, Repr

/-! ## The illumination ladder (chapter 5) -/

/-- Illumination modes (R73). -/
inductive Mode where
  | day
  | dusk
  | night
deriving DecidableEq, Repr

/-- The candidate transitions of the ladder that have a dwell (R73, R76). -/
inductive Candidate where
  | dayToDusk
  | duskToNight
  | nightToDusk
  | duskToDay
deriving DecidableEq, Repr

/-- The ladder (R73). -/
structure Ladder where
  mode : Mode
  hold : Option Mode
  /-- the pending condition and its start time -/
  pending : Option (Candidate × Time)
deriving DecidableEq, Repr

/-! ## The PWM counter (R109) -/

/-- The period counter with its working and staged pairs. -/
structure Pwm where
  /-- clear while the counter is held (R109) -/
  counting : Bool
  counter : Nat
  workingD : Nat
  workingP : Nat
  stagedD : Nat
  stagedP : Nat
deriving DecidableEq, Repr

/-! ## The fault table (chapter 8) -/

/-- States of a fault entry (R116). -/
inductive FaultState where
  | clear
  | suspect
  | active
  | recovered
deriving DecidableEq, Repr

/-- Reported transitions (R116, R124). -/
inductive Transition where
  | toActive
  | toRecovered
  | toClear
  | occurred
deriving DecidableEq, Repr

/-- A fault table entry (R116); the detail is bytes 25..31 of the report record (R181). -/
structure FaultEntry where
  state : FaultState
  debounce : Nat
  heal : Nat
  occurrences : Nat
  firstSeen : Option Time
  lastSeen : Option Time
  lastSequence : Option (BitVec 32)
  detail : Option (BitVec 56)
  pending : Option Transition
  superseded : Nat
  confirmed : Bool
  stored : Bool
deriving DecidableEq, Repr

/-! ## The path unit (chapter 10) -/

/-- What a downstream data beat carries. -/
inductive BeatOut where
  /-- a fabric beat, unchanged -/
  | raw (data : Beat) (strb : Strobes)
  /-- developed bytes: the lower and the upper eight bytes, each with its strobes set or clear (R31) -/
  | halves (lower upper : Option (BitVec 64))
  /-- a whole beat of the part's own traffic, all strobes set -/
  | full (data : Beat)
  /-- the anchor result word: only the last four bytes have their strobes set (R169) -/
  | resultWord (word : BitVec 32)
deriving DecidableEq, Repr

/-- Sources of own traffic (R164). -/
inductive OwnSource where
  | fetch
  | anchorResult
  | immediateResult
  | completionResult
  | record
  | status
  | copy
deriving DecidableEq, Repr

/-- MODEL: what the ports carry out of the part during one command. -/
inductive PortEvent where
  | upResponse (id : BusId) (resp : Resp)
  | upData (id : BusId) (beats : List RBeat)
  | downWriteAddress (a : AddrPhase)
  | downReadAddress (a : AddrPhase)
  | downWriteBeat (id : BusId) (beat : BeatOut)
deriving DecidableEq, Repr

/-- The evidence a refused write gives at its last data beat (R157, R158). -/
inductive RefusalEvidence where
  | nothing
  /-- GUARD_WRITE, with the guard code of R181 -/
  | guardWrite (code : Byte)
  /-- CAPTURE_REFUSED of a view, with the reason code of R181 and the aperture offset of the start address -/
  | captureRefused (v : Side) (reason : Byte) (offset : Nat)
deriving DecidableEq, Repr

/-- The class of a fabric write (R156). -/
inductive WriteClass where
  | plain
  | control
  /-- of a view, with the base of its CAPTURE entry; `whileStopped`: accepted while the view was STOPPED (R26), or
  outstanding at a DETACH, which stopped it: a burst not open yet is bound as stopped, and an open one gives no evidence of
  its dropped beats (R42) -/
  | capture (v : Side) (base : Addr) (whileStopped : Bool)
  | refused (e : RefusalEvidence)
deriving DecidableEq, Repr

/-- An outstanding fabric write (R161). -/
structure UpWrite where
  /-- MODEL: names the burst inside the part -/
  tag : Nat
  a : AddrPhase
  cls : WriteClass
  /-- data beats not yet taken -/
  left : Nat
  /-- the response, once it is ready (R162) -/
  ready : Option Resp
  /-- the answer of a capture burst's memory write (R34) -/
  downResp : Option Resp
  /-- MODEL: the burst was cut, so that its response is SLVERR whatever the memory answers (R34) -/
  cut : Bool
  /-- the record whose bytes are copied as the beats pass: its address and length (R160, R168) -/
  watch : Option (Addr × Nat)
  /-- the bytes of the record written so far -/
  mask : BitVec 32
  copy : BitVec 256
deriving DecidableEq, Repr

/-- How a view read burst is answered (R56). -/
inductive ReadKind where
  | refused
  | pattern
  | forwarded
deriving DecidableEq, Repr

/-- A piece of a forwarded view read (R61). -/
structure Piece where
  viewOffset : Nat
  slotOffset : Nat
  addr : Addr
  len : Nat
deriving DecidableEq, Repr

/-- A read record (R56); the upstream ID and length stand in the burst's address phase. -/
structure ReadRecord where
  view : Side
  kind : ReadKind
  charged : Option Nat
  pieces : List Piece
  outstanding : Nat
  held : List Beat
  /-- the worst response is SLVERR -/
  error : Bool
  /-- MODEL: the view has taken a START_VIEW since the acceptance (R64) -/
  restarted : Bool
deriving DecidableEq, Repr

/-- The class of a fabric read (R156). -/
inductive ReadClass where
  /-- plain and control reads, answered by memory -/
  | plain
  /-- answered by the path unit itself (R157) -/
  | answered
  | view (r : ReadRecord)
deriving DecidableEq, Repr

/-- An outstanding fabric read (R161). -/
structure UpRead where
  /-- MODEL: names the burst inside the part -/
  tag : Nat
  a : AddrPhase
  cls : ReadClass
  /-- data of a plain or answered read held inside the part (R162) -/
  held : List RBeat
  /-- data beats already returned upstream -/
  passed : Nat
deriving DecidableEq, Repr

/-- The owner of a memory-port write (R162). -/
inductive WriteOwner where
  | plain
  | dev (v : Side) (slot : Nat) (sequence : BitVec 32)
  | own (src : OwnSource)
deriving DecidableEq, Repr

/-- A memory-port write: waiting for its grant in `Path.readyW`, or granted and not yet answered in `Path.downW`. -/
structure DownWrite where
  owner : WriteOwner
  /-- MODEL: the upstream burst it serves -/
  tag : Nat
  /-- upstream ID, whose acceptance order the arbiter keeps (R164) -/
  upId : BusId
  a : AddrPhase
  /-- data beats not yet sent on the write data channel -/
  unsent : Nat
  /-- data beats ready to be sent -/
  buffer : List BeatOut
deriving DecidableEq, Repr

/-- The owner of a memory-port read. -/
inductive ReadOwner where
  | plain
  | piece (v : Side)
  | own
deriving DecidableEq, Repr

/-- A memory-port read, waiting in `Path.readyR` or granted in `Path.downR`. -/
structure DownRead where
  owner : ReadOwner
  tag : Nat
  a : AddrPhase
  /-- data beats not yet returned -/
  unreturned : Nat
deriving DecidableEq, Repr

/-- A request of the own-traffic queue (R164). -/
structure OwnRequest where
  src : OwnSource
  addr : Addr
  /-- beats of a read -/
  len : Nat
  /-- data of a write; a result record's data is taken at the grant (R175) -/
  data : List BeatOut
deriving DecidableEq, Repr

/-- The path unit (chapter 10). -/
structure Path where
  writes : List UpWrite
  reads : List UpRead
  readyW : List DownWrite
  readyR : List DownRead
  downW : List DownWrite
  downR : List DownRead
  own : List OwnRequest
  countW : Nat
  countR : Nat
  /-- MODEL: the next burst's tag -/
  nextTag : Nat
deriving DecidableEq, Repr

/-! ## The attachment and command unit (chapter 11) -/

/-- Attach states (R167). -/
inductive AttachState where
  | transparent
  | attaching
  | attached
deriving DecidableEq, Repr

/-- Result codes (R181). -/
inductive ResultCode where
  | noneYet
  | done
  | accepted
  | busy
  | badArgument
  | notStopped
  | already
  | nothingShown
  | locked
  | stillActive
  | notAttached
  | failed
deriving DecidableEq, Repr

/-- The command in flight (R167). -/
inductive LongOperation where
  | applySettings
  | copyHistory
  | clearHistory
deriving DecidableEq, Repr

/-- The fields of a command record (R180). -/
structure CommandRecord where
  issue : BitVec 32
  code : Byte
  argA : BitVec 64
  argB : BitVec 64
deriving DecidableEq, Repr

/-- A copy of the command record, with the fabric write that carried it (R160). -/
structure Handover where
  tag : Nat
  record : CommandRecord
deriving DecidableEq, Repr

/-- A result image (R175). -/
structure ResultImage where
  issue : BitVec 32
  code : ResultCode
  detail : BitVec 64
  due : Bool
deriving DecidableEq, Repr

/-- What the unit can have to issue (R175). -/
inductive UnitItem where
  | fetch (addr : Addr)
  | anchorResult
  | immediate
  | completion
deriving DecidableEq, Repr

/-- The unit's own request, in the queue or in flight; `void` after a DETACH (R177). -/
structure UnitRequest where
  item : UnitItem
  void : Bool
deriving DecidableEq, Repr

/-- The attachment and command unit (R167). -/
structure Attachment where
  state : AttachState
  anchor : Addr
  current : Option Settings
  inFlight : Option (LongOperation × BitVec 32)
  lastIssue : BitVec 32
  immediate : ResultImage
  completion : ResultImage
  driveCycle : BitVec 32
  /-- the anchor's drive cycle number, held for the fetch (R168) -/
  heldCycle : BitVec 32
  /-- the anchor result word (R169) -/
  anchorWord : BitVec 32
  /-- what is due, in the order it became due (R175) -/
  wanted : List UnitItem
  request : Option UnitRequest
  /-- MODEL: copies of the anchor record whose write was answered OKAY, not yet examined (R168) -/
  anchorCopies : List Beat
  /-- MODEL: copies of the command record whose write was answered OKAY, not yet handed over (R160) -/
  handovers : List Handover
  /-- MODEL: the command taken and not yet carried out (R174) -/
  inHand : Option Handover
deriving DecidableEq, Repr

/-! ## The report writer (chapter 9) -/

/-- A record write from its issue to its answer (R137, R140). -/
structure RecordFlight where
  entry : Nat
  overtaken : Bool
  void : Bool
deriving DecidableEq, Repr

/-- A status or copy write from its issue to its answer (R140, R151). -/
structure Flight where
  void : Bool
deriving DecidableEq, Repr

/-- The status block writer (R141, R142). -/
structure StatusWriter where
  due : Bool
  /-- a change has been taken since the issue of the write in flight -/
  changed : Bool
  flight : Option Flight
  suspended : Bool
  /-- µs until the holdoff ends -/
  holdoff : Nat
  writeCount : BitVec 32
deriving DecidableEq, Repr

/-- The report writer (R135 to R142). -/
structure Report where
  backlog : List Nat
  produce : BitVec 32
  consume : BitVec 32
  flight : Option RecordFlight
  held : Bool
  status : StatusWriter
deriving DecidableEq, Repr

/-! ## The history store (chapter 9) -/

/-- Sector states (R143). -/
inductive SectorState where
  | erased
  | active
  | full
  | retired
  | invalid
deriving DecidableEq, Repr

/-- A header program (R143, R146). -/
inductive Marker where
  | full
  | active (serial : BitVec 32)
  | retired
deriving DecidableEq, Repr

/-- How a running erase stands to a suspension (R148). -/
inductive ErasePhase where
  | running
  | requested
  | frozen
deriving DecidableEq, Repr

/-- The erase in progress (R144). -/
structure Erase where
  sector : Nat
  remaining : Nat
  suspensions : Nat
  phase : ErasePhase
  /-- while requested: the suspension was requested at the end of the erase, before ERASE_DONE was taken (R154) -/
  late : Bool
deriving DecidableEq, Repr

/-- What the array is doing, an erase apart (R144). -/
inductive ArrayOp where
  /-- the request's entry, the content programmed, µs left -/
  | record (entry : Nat) (content : Beat) (left : Nat)
  | header (sector : Nat) (marker : Marker) (left : Nat)
  | copy (sector : Nat)
deriving DecidableEq, Repr

/-- A request that waits for the array (R148). -/
inductive ArrayRequest where
  | record
  | header (sector : Nat) (marker : Marker)
  | copy (sector : Nat)
deriving DecidableEq, Repr

/-- A CLEAR_HISTORY between its acceptance and its end (R152). -/
inductive ClearPhase where
  /-- a program in progress has not ended -/
  | waiting
  | erasing
  /-- every sector is erased, and the ACTIVE marker of the new log is not programmed yet -/
  | marking
deriving DecidableEq, Repr

/-- The history store (R143, R144). -/
structure History where
  /-- the eight sectors, 64 words of 16 bytes each: the header and 63 record positions (R143) -/
  sectors : List (List Beat)
  /-- the state of each sector as the store knows it (R143, R147) -/
  known : List SectorState
  active : Nat
  /-- MODEL: the active sector holds the ACTIVE marker and is open for records -/
  activeOpen : Bool
  serial : BitVec 32
  nextPosition : Nat
  nextRecord : BitVec 32
  /-- MODEL: a new active sector is needed (R146): its serial, and the index after which it is looked for -/
  needActive : Option (BitVec 32 × Nat)
  erase : Option Erase
  eraseList : List Nat
  queue : List Nat
  /-- MODEL: the head request has failed once (R145) -/
  retried : Bool
  usable : Nat
  lock : Bool
  scanning : Bool
  disabled : Bool
  clearing : Option ClearPhase
  op : Option ArrayOp
  /-- MODEL: requests waiting for the array, in the order they became servable (R148) -/
  waiting : List ArrayRequest
  /-- MODEL: the address the copy in progress goes to (R151) -/
  copyAddr : Addr
  /-- MODEL: the sector data read for a copy, not yet requested as a write (R164) -/
  copyData : Option (List Beat)
  copyFlight : Option Flight
deriving DecidableEq, Repr

/-! ## The whole state -/

/-- The state of the part. -/
structure State where
  /-- MODEL: the commands that wait, first in, first out -/
  pending : List Instr
  timebase : Time
  views : Sides View
  ladder : Ladder
  pwm : Pwm
  faults : List FaultEntry
  path : Path
  attach : Attachment
  report : Report
  history : History
  /-- MODEL: free values used so far (log entry 7) -/
  freeIndex : Nat
  /-- MODEL: what the ports carried out during the last command (log entry 6) -/
  out : List PortEvent
deriving DecidableEq, Repr

/-- Why a command stops the model. -/
inductive Fault where
  /-- Raised by every command whose operands the link cannot carry (`Instr.wellFormed`). Safe: no such event reaches
  the part's ports, so nothing can be proved of one (log entry 1). -/
  | illFormed
  /-- Raised by an answer of memory that no outstanding transaction of its kind awaits. Safe: the link has no such
  answer, so nothing can be proved of one (log entry 1). -/
  | noTransaction
deriving DecidableEq, Repr

/-- Why a command has no meaning. -/
inductive Refusal where
  /-- Raised by `exec`'s arm of a row that has no meaning yet; no row of this model. Safe. -/
  | notModelled (mnemonic : String)
deriving DecidableEq, Repr

/-! ## Reset -/

/-- A view after a link or power-on reset (R3, R24, R25, R84, R101, R110, R167). -/
def View.reset : View where
  state := .stopped
  nextSequence := some 1
  capture := .none
  shown := none
  startTime := 0
  lastSignature := none
  level := 0
  levelValid := false
  pan := (0, 0)
  panTarget := (0, 0)
  slots := []
  burst := none
  captureLatch := { time := 0, awaiting := false }
  displayLatch := { time := 0, awaiting := false }
  glare := []
  staged := 0
  working := 0
  inverted := false
  pendingDev := none
  pendingFlip := none

/-- A fault entry after a reset (R116). -/
def FaultEntry.reset : FaultEntry where
  state := .clear
  debounce := 0
  heal := 0
  occurrences := 0
  firstSeen := none
  lastSeen := none
  lastSequence := none
  detail := none
  pending := none
  superseded := 0
  confirmed := false
  stored := false

/-- The path unit after a reset (R161, R164, R165). -/
def Path.reset : Path where
  writes := []
  reads := []
  readyW := []
  readyR := []
  downW := []
  downR := []
  own := []
  countW := 0
  countR := 0
  nextTag := 0

/-- A result image that is not due (R167). -/
def ResultImage.reset : ResultImage where
  issue := 0
  code := .noneYet
  detail := 0
  due := false

/-- The attachment unit after a reset with the anchor address the straps select (R167). -/
def Attachment.reset (anchor : Addr) : Attachment where
  state := .transparent
  anchor := anchor
  current := none
  inFlight := none
  lastIssue := 0
  immediate := .reset
  completion := .reset
  driveCycle := 0
  heldCycle := 0
  anchorWord := 0
  wanted := []
  request := none
  anchorCopies := []
  handovers := []
  inHand := none

/-- The report writer after a reset (R135, R136, R142). R142 gives no reset value for `held`, `suspended` and the
holdoff: they are cleared, and the holdoff of a write issued before a link reset does not run on (DESIGN CHOICE, log
entry 35). -/
def Report.reset : Report where
  backlog := []
  produce := 0
  consume := 0
  flight := none
  held := false
  status :=
    { due := false, changed := false, flight := none, suspended := false, holdoff := 0, writeCount := 0 }

/-- The history store after a power-on reset, over the contents its sectors hold (R144): SCANNING, and what the scan
finds not found yet (log entry 8). -/
def History.powerOn (sectors : List (List Beat)) : History where
  sectors := sectors
  known := List.replicate 8 .erased
  active := 0
  activeOpen := false
  serial := 0
  nextPosition := 1
  nextRecord := 1
  needActive := none
  erase := none
  eraseList := []
  queue := []
  retried := false
  usable := 0
  lock := false
  scanning := true
  disabled := false
  clearing := none
  op := none
  waiting := []
  copyAddr := 0
  copyData := none
  copyFlight := none

/-- The machine after a power-on reset with both straps 0 and erased sectors (log entries 8 and 9). -/
def State.reset : State where
  pending := []
  timebase := 0
  views := { left := .reset, right := .reset }
  ladder := { mode := .day, hold := none, pending := none }
  pwm := { counting := false, counter := 0, workingD := 0, workingP := 62, stagedD := 0, stagedP := 62 }
  faults := List.replicate Config.faultCount .reset
  path := .reset
  attach := .reset 0x07FF00000
  report := .reset
  history := .powerOn (List.replicate 8 (List.replicate 64 (BitVec.allOnes 128)))
  freeIndex := 0
  out := []

end Sys2Proof.Machine
end

