-- ==== Sys2Proof/WellFormed.lean ====
section
/-! DEFINITION. What the link can carry (R159, section 0.8). A command that breaks one of these checks is no event of
the part's ports; `exec` stops on it with the fault `illFormed` (log entry 1). -/

namespace Sys2Proof

/-- A burst the link can carry: transfer size at most 16 bytes, INCR 1 to 256 beats, FIXED 1 to 16 beats, WRAP 2, 4,
8 or 16 beats from an address aligned to the transfer size (R159). -/
def AddrPhase.wellFormed (a : AddrPhase) : Bool :=
  decide (a.size ≤ 4) &&
  match a.burst with
  | .incr => decide (1 ≤ a.len) && decide (a.len ≤ 256)
  | .fixed => decide (1 ≤ a.len) && decide (a.len ≤ 16)
  | .wrap => (a.len == 2 || a.len == 4 || a.len == 8 || a.len == 16) && a.addr.toNat % 2 ^ a.size == 0

/-- A response that a transaction of the part itself can receive: none of them is an exclusive access, so the memory
never answers EXOKAY (log entry 17). -/
def Resp.toOwn (r : Resp) : Bool := r != .exokay

/-- Read data of `n` beats that the part itself has asked for. -/
def ownBeats (n : Nat) (beats : List RBeat) : Bool :=
  beats.length == n && beats.all fun b => b.resp.toOwn

/-- The check of one command. -/
def Instr.wellFormed : Instr → Bool
  | .fabricWriteAccept a => a.wellFormed
  | .fabricReadAccept a => a.wellFormed
  | .downstreamWriteResponse _ r => r.toOwn
  | .readPieceReturn _ beats => ownBeats beats.length beats
  | .settingsFetchReturn beats => ownBeats 64 beats
  | .anchorResultWriteResponse r => r.toOwn
  | .resultWriteResponse r => r.toOwn
  | .reportRecordWriteResponse r => r.toOwn
  | .statusWriteResponse r => r.toOwn
  | .historyCopyWriteResponse r => r.toOwn
  | .powerOnReset _ _ => true
  | .linkReset _ _ => true
  | .timebaseTick => true
  | .pwmWrap => true
  | .captureStrobe _ => true
  | .displayStrobe _ => true
  | .writeDataBeat _ _ => true
  | .captureBeat _ _ => true
  | .forwardedRequestGrant _ => true
  | .ownRequestGrant _ => true
  | .viewReadRelease _ => true
  | .plainMemoryResponse _ => true
  | .heldResponseRelease _ _ => true
  | .commandHandover => true
  | .unknownCommandCode _ => true
  | .applySettings _ => true
  | .startView _ => true
  | .stopView _ => true
  | .setPan _ _ _ => true
  | .pinFrame _ => true
  | .releasePin _ => true
  | .ackReports _ => true
  | .clearFault _ => true
  | .holdMode _ => true
  | .copyHistory _ _ => true
  | .clearHistory _ => true
  | .detach => true
  | .anchorRecordWrite => true
  | .recordWriteIssue => true
  | .statusWriteIssue => true
  | .storeRequestServe => true
  | .recordProgramDone _ => true
  | .headerProgramDone _ => true
  | .eraseStart => true
  | .eraseSuspendEffect => true
  | .eraseDone _ => true
  | .scanDone => true
  | .historyCopyReadDone => true
  | .pwmClock => true

end Sys2Proof
end

