-- ==== Sys2Proof/Machine/Ops.lean ====
section
/-! DEFINITION. The named operations over the state that every command shares: reading and writing one view, the parts
of the state, the port record, free values, list positions, elapsed times, and how a command ends. -/

namespace Sys2Proof.Machine

/-- The other view. -/
def other : Side → Side
  | .left => .right
  | .right => .left

/-- 0 for LEFT, 1 for RIGHT (section 1.7). -/
def sideIndex : Side → Nat
  | .left => 0
  | .right => 1

/-- The view a view field names; other values name none (section 1.7). -/
def sideOf (b : Byte) : Option Side :=
  if b = 0 then some .left else if b = 1 then some .right else none

/-- The value of one view. -/
def Sides.get {α : Type} (p : Sides α) : Side → α
  | .left => p.left
  | .right => p.right

/-- `p` with the value of one view replaced. -/
def Sides.set {α : Type} (p : Sides α) (v : Side) (x : α) : Sides α :=
  match v with
  | .left => { p with left := x }
  | .right => { p with right := x }

namespace State

/-- The state of one view. -/
def view (s : State) (v : Side) : View := s.views.get v

def setView (s : State) (v : Side) (x : View) : State := { s with views := s.views.set v x }

def setViews (s : State) (x : Sides View) : State := { s with views := x }

def setTimebase (s : State) (x : Time) : State := { s with timebase := x }

def setLadder (s : State) (x : Ladder) : State := { s with ladder := x }

def setPwm (s : State) (x : Pwm) : State := { s with pwm := x }

def setFaults (s : State) (x : List FaultEntry) : State := { s with faults := x }

def setPath (s : State) (x : Path) : State := { s with path := x }

def setAttach (s : State) (x : Attachment) : State := { s with attach := x }

def setReport (s : State) (x : Report) : State := { s with report := x }

def setHistory (s : State) (x : History) : State := { s with history := x }

def setFreeIndex (s : State) (x : Nat) : State := { s with freeIndex := x }

def setOut (s : State) (x : List PortEvent) : State := { s with out := x }

/-- Adds to what the ports carry out during the command (log entry 6). -/
def emit (s : State) (e : List PortEvent) : State := s.setOut (s.out ++ e)

/-- A new command begins with nothing carried out. -/
def quiet (s : State) : State := s.setOut []

/-- The next free value (log entry 7). -/
def freeValue (s : State) : BitVec 128 := Config.freeWord s.freeIndex

/-- `n` free values have been used. -/
def useFree (s : State) (n : Nat) : State := s.setFreeIndex (s.freeIndex + n)

end State

/-! ## Settings in force -/

/-- A view that no settings describe: no state of the part uses it (R167, R170). -/
def ViewSettings.absent : ViewSettings where
  geometry := { w := 0, h := 0, vw := 0, vh := 0, bases := [] }
  dev :=
    { black := 0, ratio := 4, knee := 1024, shift := 0, curveA := [], curveB := [], glareThreshold := 4096 }
  flip :=
    { pattern := 0, protect := 128, panStepX := 8, panStepY := 1, glareMin := 1, slope := 0, gainFloor := 256,
      stepDown := 1, stepUp := 1, dayDuty := 0, duskDuty := 0, nightDuty := 0, blankDuty := 0, glareTrim := 0,
      dutyMin := 0, dutyMax := 0, blStep := 1, inversion := false }
  limits := { darkLevel := 0, blockedTiles := 1, staleLimit := 10000, startLimit := 100000, latencyLimit := 1000 }

/-- The confirm and heal counts until the first attach after a reset (R123). -/
def Counts.untilAttach : Counts where
  safety := 1
  warning := 1
  freeze := 2
  safetyHeal := 1
  warningHeal := 1

namespace State

/-- The settings of a view in force; those of a DETACH are kept (R177). -/
def viewSettings (s : State) (v : Side) : ViewSettings :=
  match s.attach.current with
  | some c => c.views.get v
  | none => .absent

def geometry (s : State) (v : Side) : Geometry := (s.viewSettings v).geometry

def flipFields (s : State) (v : Side) : FlipFields := (s.viewSettings v).flip

def limits (s : State) (v : Side) : ViewLimits := (s.viewSettings v).limits

/-- The confirm and heal counts in force (R123). -/
def counts (s : State) : Counts :=
  match s.attach.current with
  | some c => c.counts
  | none => .untilAttach

/-- The region table, used only while ATTACHED (R155). -/
def table (s : State) : List (Option Region) :=
  match s.attach.current with
  | some c => c.table
  | none => []

/-- The report area in force, used only while ATTACHED (R140). -/
def reportArea (s : State) : Addr :=
  match s.attach.current with
  | some c => c.reportArea
  | none => 0

/-- `s` with the current settings of one view replaced (R173). -/
def setViewSettings (s : State) (v : Side) (x : ViewSettings) : State :=
  match s.attach.current with
  | some c => s.setAttach { s.attach with current := some { c with views := c.views.set v x } }
  | none => s

end State

/-- Bytes of a raw frame, W·H·4 (R2). -/
def Geometry.rawBytes (g : Geometry) : Nat := g.w * g.h * 4

/-- Bytes of a developed frame and of a slot, W·H·2 (R2). -/
def Geometry.slotBytes (g : Geometry) : Nat := g.w * g.h * 2

/-- Bytes of the view window, VW·VH·2 (R58). -/
def Geometry.windowBytes (g : Geometry) : Nat := g.vw * g.vh * 2

/-- Pixels of a tile, N_t (R43). -/
def Geometry.tilePixels (g : Geometry) : Nat := (g.w / 16) * (g.h / 8)

/-! ## Positions of a list -/

/-- The list with the value at one position changed; unchanged where there is no such position. -/
def updateAt {α : Type} (l : List α) (i : Nat) (f : α → α) : List α := l.modify i f

/-- Index and value of the first element that meets a test. -/
def firstIndex {α : Type} (p : α → Bool) (l : List α) : Option Nat := l.findIdx? p

/-- Inserts before the first element that does not come before `x`. -/
def insertBy {α : Type} (before : α → α → Bool) (x : α) : List α → List α
  | [] => [x]
  | y :: ys => if before y x then y :: insertBy before x ys else x :: y :: ys

/-- Sorts by an order in which no two elements are equal. -/
def sortBy {α : Type} (before : α → α → Bool) (l : List α) : List α := l.foldr (insertBy before) []

/-! ## Time -/

/-- The elapsed time from `a` to `b` (R100). -/
def elapsed (a b : Time) : Nat := (b - a).toNat

/-- An elapsed time exceeds a limit; 2^31 µs or more exceeds every limit (R100). -/
def exceeds (t limit : Nat) : Bool := decide (2 ^ 31 ≤ t) || decide (limit < t)

/-- An elapsed time is at least a dwell (R77). -/
def reaches (t dwell : Nat) : Bool := decide (2 ^ 31 ≤ t) || decide (dwell ≤ t)

/-! ## How a command ends -/

/-- What a command answers. -/
abbrev Result := Host.Outcome State Fault Refusal

/-- The event does not take place now: nothing changes (log entry 1). -/
def stays (s : State) : Result := .next s.quiet

/-- Runs a meaning on a command the link can carry, and stops on any other (log entry 1). -/
def guarded (i : Instr) (r : Result) : Result := if i.wellFormed then r else .fault .illFormed

end Sys2Proof.Machine
end

