-- ==== Sys2Proof/Machine/Operands.lean ====
section
/-! DEFINITION. The operand forms: the bytes of a burst and the address of each of its beats, the ranges of the region
table and of the guards, byte fields of records and of data beats, and the command a record spells (R155, R156, R158,
R160, R168, R179, R180). -/

namespace Sys2Proof.Machine

/-! ## Bursts -/

/-- Bytes of one transfer. -/
def beatBytes (a : AddrPhase) : Nat := 2 ^ a.size

/-- The start address rounded down to the transfer size. -/
def alignedStart (a : AddrPhase) : Nat := a.addr.toNat / beatBytes a * beatBytes a

/-- The lowest address a WRAP burst touches. -/
def wrapBase (a : AddrPhase) : Nat := a.addr.toNat / (a.len * beatBytes a) * (a.len * beatBytes a)

/-- The lowest byte a burst may touch. -/
def firstByte (a : AddrPhase) : Nat :=
  match a.burst with
  | .wrap => wrapBase a
  | _ => a.addr.toNat

/-- The byte after the highest byte a burst may touch. -/
def endByte (a : AddrPhase) : Nat :=
  match a.burst with
  | .incr => alignedStart a + a.len * beatBytes a
  | .fixed => alignedStart a + beatBytes a
  | .wrap => wrapBase a + a.len * beatBytes a

/-- The address of beat `n` of a burst. -/
def beatAddress (a : AddrPhase) (n : Nat) : Nat :=
  match a.burst with
  | .incr => if n = 0 then a.addr.toNat else alignedStart a + n * beatBytes a
  | .fixed => a.addr.toNat
  | .wrap => wrapBase a + (a.addr.toNat - wrapBase a + n * beatBytes a) % (a.len * beatBytes a)

/-- An INCR burst that leaves the 4 KiB block it starts in (R158); no other burst can. -/
def crosses4K (a : AddrPhase) : Bool :=
  a.burst == .incr && a.addr.toNat / 4096 != (endByte a - 1) / 4096

/-- The burst the part issues for its own purposes: INCR with 16-byte beats (R31, R61, R164). -/
def incrBurst (id : BusId) (addr : Addr) (len : Nat) : AddrPhase :=
  { id := id, addr := addr, len := len, size := 4, burst := .incr, excl := false }

/-! ## Ranges -/

/-- Two byte ranges, each from its first byte to the byte after its last, share a byte; an empty range shares none. -/
def rangesMeet (a b c d : Nat) : Bool := decide (max a c < min b d)

/-- Bytes of a region (R155). -/
def Region.size (r : Region) : Nat := 2 ^ r.exponent

/-- The byte after a region. -/
def Region.last (r : Region) : Nat := r.base.toNat + r.size

/-- An address matches a region (R155). -/
def Region.holds (r : Region) (addr : Nat) : Bool := decide (r.base.toNat ≤ addr) && decide (addr < r.last)

/-- The lowest-numbered used entry that meets a test, with its number (R156). -/
def findEntry (p : Region → Bool) (table : List (Option Region)) : Option (Nat × Region) :=
  (table.zipIdx.filterMap fun (e, i) =>
    match e with
    | some r => if p r then some (i, r) else none
    | none => none).head?

/-- A guard: its code in R181, and its range. -/
structure GuardRange where
  code : Byte
  first : Nat
  last : Nat
deriving DecidableEq, Repr

/-- The GUARD entries of the table, in order. -/
def tableGuards (s : State) : List GuardRange :=
  s.table.zipIdx.filterMap fun (e, i) =>
    match e with
    | some r => if r.kind = .guard then some ⟨BitVec.ofNat 8 i, r.base.toNat, r.last⟩ else none
    | none => none

/-- The slots of a view as guard ranges (R155). -/
def slotGuards (s : State) (v : Side) : List GuardRange :=
  (s.view v).slots.zipIdx.map fun (sl, i) =>
    ⟨BitVec.ofNat 8 (0x10 + 4 * sideIndex v + i), sl.base.toNat, sl.base.toNat + (s.geometry v).slotBytes⟩

/-- The report area as a guard range (R155). -/
def reportGuard (s : State) : GuardRange := ⟨0x20, s.reportArea.toNat, s.reportArea.toNat + 4096⟩

/-- Every guard in force while ATTACHED, table entries before derived ranges (R155, R157). -/
def guards (s : State) : List GuardRange :=
  tableGuards s ++ slotGuards s .left ++ slotGuards s .right ++ [reportGuard s]

/-- The lowest byte of a range that lies in a guard. -/
def GuardRange.meets (g : GuardRange) (first last : Nat) : Bool := rangesMeet first last g.first g.last

/-- The guard that refuses a write of the bytes `first .. last - 1`: the one that holds the lowest of them lying in any
guard, the first in the order of `guards` where several do (R156, R157). -/
def refusingGuard (gs : List GuardRange) (first last : Nat) : Option Byte :=
  let hit := gs.filter fun g => g.meets first last
  let lowest := hit.foldl (fun m g => min m (max first g.first)) last
  (hit.find? fun g => decide (max first g.first = lowest)).map GuardRange.code

/-! ## Bytes -/

/-- Byte `i` of a value (R179). -/
def byteOf {n : Nat} (w : BitVec n) (i : Nat) : Byte := w.extractLsb' (8 * i) 8

/-- Byte `i` of a block held as data beats. -/
def blockByte (beats : List Beat) (i : Nat) : Byte := byteOf (beats.getD (i / 16) 0) (i % 16)

/-- The little-endian value of `k` bytes from offset `off` of a block (R179). -/
def field (beats : List Beat) (off k : Nat) : Nat :=
  match k with
  | 0 => 0
  | k + 1 => (blockByte beats off).toNat + 256 * field beats (off + 1) k

/-- A flag byte is set when its bit 0 is 1 (R179). -/
def flag (beats : List Beat) (off : Nat) : Bool := (blockByte beats off).getLsbD 0

/-- The `k` little-endian bytes of a value (R179). -/
def leBytes (k : Nat) (n : Nat) : List Byte :=
  match k with
  | 0 => []
  | k + 1 => BitVec.ofNat 8 n :: leBytes k (n / 256)

/-- Sixteen bytes as a data beat, the first at the lowest offset. -/
def beatOf (bytes : List Byte) : Beat :=
  (bytes.take 16).foldr (fun b acc => (acc <<< 8) ||| b.setWidth 128) 0

/-- The first `16 n` bytes of a record as data beats. -/
def beatsOf (n : Nat) (bytes : List Byte) : List Beat :=
  match n with
  | 0 => []
  | n + 1 => beatOf bytes :: beatsOf n (bytes.drop 16)

/-- The address a 64-bit address field holds: its low 36 bits (R179, log entry 14). -/
def addrField (w : BitVec 64) : Addr := w.setWidth 36

/-! ## Copies of the command and anchor records -/

/-- The copy a burst keeps of its watched record after one data beat: each byte of the record whose strobe is set is
taken from its place in the beat (R160, R168). -/
def UpWrite.watchBeat (u : UpWrite) (data : Beat) (strb : Strobes) : UpWrite :=
  match u.watch with
  | none => u
  | some (base, len) =>
    let low := beatAddress u.a (u.a.len - u.left) / 16 * 16
    (List.range 16).foldl
      (fun (acc : UpWrite) i =>
        if strb.getLsbD i && decide (base.toNat ≤ low + i) && decide (low + i < base.toNat + len) then
          let k := low + i - base.toNat
          { acc with
            mask := acc.mask ||| (1 <<< k)
            copy := (acc.copy &&& ~~~((0xFF : BitVec 256) <<< (8 * k))) |||
              ((byteOf data i).setWidth 256 <<< (8 * k)) }
        else acc)
      u

/-- Every byte of the watched record has been written (R160, R168). -/
def UpWrite.covers (u : UpWrite) : Bool :=
  match u.watch with
  | none => false
  | some (_, len) => u.mask == BitVec.allOnes 32 >>> (32 - len)

/-- The command record in a copy of its 32 bytes (R180). -/
def commandRecord (copy : BitVec 256) : CommandRecord where
  issue := copy.extractLsb' 0 32
  code := copy.extractLsb' 32 8
  argA := copy.extractLsb' 64 64
  argB := copy.extractLsb' 128 64

/-- The command a record spells (R180). -/
def CommandRecord.command (r : CommandRecord) : Instr :=
  match r.code.toNat with
  | 1 => .applySettings r.argA
  | 2 => .startView (r.argA.extractLsb' 0 8)
  | 3 => .stopView (r.argA.extractLsb' 0 8)
  | 4 => .setPan (r.argA.extractLsb' 0 8) (r.argA.extractLsb' 16 16) (r.argA.extractLsb' 32 16)
  | 5 => .pinFrame (r.argA.extractLsb' 0 8)
  | 6 => .releasePin (r.argA.extractLsb' 0 8)
  | 7 => .ackReports (r.argA.extractLsb' 0 32)
  | 8 => .clearFault (r.argA.extractLsb' 0 8)
  | 9 => .holdMode (r.argA.extractLsb' 0 8)
  | 10 => .copyHistory (r.argA.extractLsb' 0 8) r.argB
  | 11 => .clearHistory (r.argA.extractLsb' 0 32)
  | 12 => .detach
  | _ => .unknownCommandCode r.code

/-! ## Developed words -/

/-- A developed pair word (Y0, U, Y1, V), Y0 in the lowest byte (R39, R46). -/
def pairWord (y0 u y1 v : Byte) : BitVec 32 := v ++ y1 ++ u ++ y0

/-- A beat that repeats one developed word four times (R57, R66). -/
def repeatWord (w : BitVec 32) : Beat := w ++ w ++ w ++ w

/-- Developed word `i` of a beat, 0..3. -/
def wordOf (b : Beat) (i : Nat) : BitVec 32 := b.extractLsb' (32 * i) 32

end Sys2Proof.Machine
end

