-- ==== Sys2Proof/Machine/Flags.lean ====
section
/-! DEFINITION. What follows from the state at every moment: the monitor-safe and attention lines (R127, R128), the
backlight outputs (R110), the activity of the history store (R144), the tile gains (R84) and the fields of the status
block whose change makes a status write due (R141). None of these is stored a second time (log entry 28). -/

namespace Sys2Proof.Machine

/-! ## The fault table -/

/-- The view kinds of the fault table, in order (R116). -/
inductive ViewKind where
  | frozenFeed
  | staleImage
  | lateFrame
  | gappedFrame
  | shortFrame
  | emptyFrame
  | displayIdle
  | viewBlocked
  | orderBreach
  | captureRefused
  | glareOverflow
deriving DecidableEq, Repr

/-- The number k of a view kind (R116). -/
def ViewKind.number : ViewKind → Nat
  | .frozenFeed => 0
  | .staleImage => 1
  | .lateFrame => 2
  | .gappedFrame => 3
  | .shortFrame => 4
  | .emptyFrame => 5
  | .displayIdle => 6
  | .viewBlocked => 7
  | .orderBreach => 8
  | .captureRefused => 9
  | .glareOverflow => 10

/-- The index of a view entry (R116). -/
def entryIndex (k : ViewKind) (v : Side) : Nat := 2 * k.number + sideIndex v

/-- The indices of the device entries (R116). -/
def guardWriteEntry : Nat := 22
def memoryErrorEntry : Nat := 23
def settingsRejectEntry : Nat := 24
def storeFaultEntry : Nat := 25

/-- The view of an entry; a device entry has none (R116). -/
def entrySide (i : Nat) : Option Side :=
  if i < 22 then some (if i % 2 = 0 then .left else .right) else none

/-- Event kinds: ORDER_BREACH, CAPTURE_REFUSED, GLARE_OVERFLOW, GUARD_WRITE, MEMORY_ERROR, SETTINGS_REJECT (R117). -/
def isEvent (i : Nat) : Bool := decide (16 ≤ i) && decide (i ≤ 24)

/-- SAFETY kinds, which are the latched ones: FROZEN_FEED and STALE_IMAGE (R117). -/
def isSafety (i : Nat) : Bool := decide (i < 4)

/-- Kinds that are stored: every WARNING and SAFETY kind, and no INFO kind (R117, R125). -/
def isStored (i : Nat) : Bool := !(isEvent i) || i == guardWriteEntry || i == memoryErrorEntry

namespace State

/-- A fault entry. -/
def fault (s : State) (i : Nat) : FaultEntry := s.faults.getD i .reset

/-- A SAFETY entry of the view is ACTIVE (R6). -/
def safetyActive (s : State) (v : Side) : Bool :=
  (s.fault (entryIndex .frozenFeed v)).state == .active || (s.fault (entryIndex .staleImage v)).state == .active

/-- A SAFETY entry of the view is ACTIVE or RECOVERED (R127). -/
def safetyHeld (s : State) (v : Side) : Bool :=
  s.safetyActive v ||
    (s.fault (entryIndex .frozenFeed v)).state == .recovered || (s.fault (entryIndex .staleImage v)).state == .recovered

/-! ## Lines -/

/-- SAFEL or SAFER is asserted (R127). -/
def safeLine (s : State) (v : Side) : Bool := !((s.view v).state == .running && !(s.safetyHeld v))

/-- ATTN is asserted (R128). -/
def attention (s : State) : Bool :=
  s.attach.state == .attached &&
    (match s.attach.current with
      | some c => c.attention
      | none => false) &&
    s.report.produce != s.report.consume

/-- A backlight output is at its active level (R110). -/
def backlightActive (s : State) (v : Side) : Bool := decide (s.pwm.counter < (s.view v).working)

/-- BLPWML or BLPWMR is high (R110): the active level is high when the inversion flag is clear. -/
def backlightHigh (s : State) (v : Side) : Bool := s.backlightActive v != (s.view v).inverted

end State

/-! ## Gains -/

/-- The gain of a tile (R84). -/
def tileGain (l : List GlareEntry) (tile : Nat) : Nat :=
  match l.find? fun e => e.tile == tile with
  | some e => e.gain
  | none => Config.fullGain

/-- An entry in the phase DIMMING (R84). -/
def GlareEntry.dimming (e : GlareEntry) : Bool := decide (e.target < Config.fullGain)

/-- Entries in the phase DIMMING. -/
def dimmingCount (l : List GlareEntry) : Nat := (l.filter GlareEntry.dimming).length

/-! ## The activity of the history store -/

/-- The activities (R144). -/
inductive Activity where
  | idle
  | scanning
  | programming
  | erasing
  | eraseSuspended
  | copying
  | clearing
  | disabled
deriving DecidableEq, Repr

/-- The activity names what the array is doing (R144, R147, R150, R152). -/
def History.activity (h : History) : Activity :=
  if h.disabled then .disabled
  else if h.scanning then .scanning
  else if h.clearing = some .erasing ∨ h.clearing = some .marking then .clearing
  else
    match h.op with
    | some (.record _ _ _) => .programming
    | some (.header _ _ _) => .programming
    | some (.copy _) => .copying
    | none =>
      match h.erase with
      | some e => if e.phase = .requested then .eraseSuspended else .erasing
      | none => .idle

/-! ## The status block -/

/-- A fault state as the status block shows it: SUSPECT as CLEAR (R130, R141, R181). -/
def FaultState.code : FaultState → Nat
  | .clear => 0
  | .suspect => 0
  | .active => 2
  | .recovered => 3

/-- The fields of the status block that concern one view (R141). -/
structure ViewStatus where
  state : ViewState
  level : Nat
  levelValid : Bool
  pinned : Option (Nat × BitVec 32)
  glareEntries : Nat
  dimming : Nat
deriving DecidableEq, Repr

/-- The fields of the status block, the write count and the write time apart (R141). -/
structure StatusFields where
  driveCycle : BitVec 32
  produce : BitVec 32
  consume : BitVec 32
  backlog : Nat
  mode : Mode
  hold : Option Mode
  safeLeft : Bool
  safeRight : Bool
  attention : Bool
  activity : Activity
  lock : Bool
  active : Nat
  usable : Nat
  nextRecord : BitVec 32
  left : ViewStatus
  right : ViewStatus
  faultCodes : List Nat
deriving DecidableEq, Repr

/-- The PINNED slot of a view and its frame's sequence (R141). -/
def View.pinned (x : View) : Option (Nat × BitVec 32) :=
  match firstIndex (fun sl => sl.state == .pinned) x.slots with
  | some i => some (i, ((x.slots[i]?.bind Slot.frame).map Frame.sequence).getD 0)
  | none => none

/-- The status fields of a view. -/
def View.status (x : View) : ViewStatus where
  state := x.state
  level := x.level
  levelValid := x.levelValid
  pinned := x.pinned
  glareEntries := x.glare.length
  dimming := dimmingCount x.glare

/-- The status fields as they stand (R141). -/
def State.status (s : State) : StatusFields where
  driveCycle := s.attach.driveCycle
  produce := s.report.produce
  consume := s.report.consume
  backlog := s.report.backlog.length
  mode := s.ladder.mode
  hold := s.ladder.hold
  safeLeft := s.safeLine .left
  safeRight := s.safeLine .right
  attention := s.attention
  activity := s.history.activity
  lock := s.history.lock
  active := s.history.active
  usable := s.history.usable
  nextRecord := s.history.nextRecord
  left := (s.view .left).status
  right := (s.view .right).status
  faultCodes := s.faults.map fun e => e.state.code

/-- A status write becomes due (R141, R142). -/
def State.statusDue (s : State) : State :=
  s.setReport { s.report with status := { s.report.status with due := true, changed := true } }

/-- How a command that began in `s` ends in `t`: a status write is due if a field of the status block has changed
(R141). -/
def finish (s t : State) : Result := .next (if s.status = t.status then t else t.statusDue)

end Sys2Proof.Machine
end

