-- ==== Sys2Proof/Machine/Formats.lean ====
section
/-! DEFINITION. The records the part writes (R181): details of report records, the report record, the status block,
the result records, the anchor result word, the history record and the sector headers. -/

namespace Sys2Proof.Machine

/-! ## Details: bytes 25..31 of the report record -/

/-- A detail from its seven bytes. -/
def detailOf (bytes : List Byte) : BitVec 56 :=
  (bytes.take 7).foldr (fun b acc => (acc <<< 8) ||| b.setWidth 56) 0

/-- Byte 25, and a 32-bit value in bytes 28..31. -/
def detailWord (b25 : Nat) (w : Nat) : BitVec 56 :=
  detailOf ([BitVec.ofNat 8 b25, 0, 0] ++ leBytes 4 w)

/-- ORDER_BREACH: reason, beat offset / 16, fill point / 16 (R30, R181). -/
def detailOrderBreach (reason offset fill : Nat) : BitVec 56 :=
  detailOf (BitVec.ofNat 8 reason :: leBytes 3 (offset / 16) ++ leBytes 3 (fill / 16))

/-- CAPTURE_REFUSED: reason, upstream ID, aperture offset (R33, R158, R181). -/
def detailCaptureRefused (reason : Byte) (id : BusId) (offset : Nat) : BitVec 56 :=
  detailOf ([reason, id.setWidth 8, 0] ++ leBytes 4 offset)

/-- GUARD_WRITE, and MEMORY_ERROR: a code, a byte and an address in bytes 27..31 (R181). -/
def detailAddress (b25 b26 : Byte) (addr : Addr) : BitVec 56 :=
  detailOf ([b25, b26] ++ leBytes 5 addr.toNat)

/-- Three single bytes: VIEW_BLOCKED, GLARE_OVERFLOW, SETTINGS_REJECT, STORE_FAULT (R181). -/
def detailBytes (b25 b26 b27 : Nat) : BitVec 56 :=
  detailOf [BitVec.ofNat 8 b25, BitVec.ofNat 8 b26, BitVec.ofNat 8 b27, 0, 0, 0, 0]

/-- The MEMORY_ERROR source code of own traffic (R181). -/
def OwnSource.code : OwnSource → Byte
  | .fetch => 2
  | .anchorResult => 3
  | .immediateResult => 4
  | .completionResult => 4
  | .record => 5
  | .status => 6
  | .copy => 7

/-! ## Codes -/

def ResultCode.number : ResultCode → Nat
  | .noneYet => 0
  | .done => 1
  | .accepted => 2
  | .busy => 3
  | .badArgument => 4
  | .notStopped => 5
  | .already => 6
  | .nothingShown => 7
  | .locked => 8
  | .stillActive => 9
  | .notAttached => 10
  | .failed => 11

def Transition.code : Transition → Nat
  | .toActive => 1
  | .toRecovered => 2
  | .toClear => 3
  | .occurred => 4

def Mode.code : Mode → Nat
  | .day => 0
  | .dusk => 1
  | .night => 2

def ViewState.code : ViewState → Nat
  | .stopped => 0
  | .starting => 1
  | .running => 2
  | .blanked => 3

def Activity.code : Activity → Nat
  | .idle => 0
  | .scanning => 1
  | .programming => 2
  | .erasing => 3
  | .eraseSuspended => 4
  | .copying => 5
  | .clearing => 6
  | .disabled => 7

/-! ## Records -/

/-- The report record of an entry (R137, R181). -/
def reportRecord (number cycle : BitVec 32) (i : Nat) (e : FaultEntry) : List Beat :=
  beatsOf 2
    (leBytes 4 number.toNat ++ leBytes 4 cycle.toNat ++ leBytes 4 (e.firstSeen.getD 0).toNat ++
      leBytes 4 (e.lastSeen.getD 0).toNat ++ leBytes 4 (e.lastSequence.getD 0).toNat ++ leBytes 2 e.occurrences ++
      [BitVec.ofNat 8 i,
        BitVec.ofNat 8 (((e.pending.map Transition.code).getD 0) + 16 * e.state.code),
        BitVec.ofNat 8 e.superseded] ++
      leBytes 7 (e.detail.getD 0).toNat)

/-- The 32 bytes of a view in the status block (R181). -/
def ViewStatus.bytes (x : ViewStatus) : List Byte :=
  [BitVec.ofNat 8 x.state.code, BitVec.ofNat 8 x.level, if x.levelValid then 1 else 0,
    match x.pinned with
    | some (i, _) => BitVec.ofNat 8 i
    | none => 0xFF] ++
    leBytes 4 (match x.pinned with
      | some (_, n) => n.toNat
      | none => 0) ++
    [BitVec.ofNat 8 x.glareEntries, BitVec.ofNat 8 x.dimming] ++ List.replicate 22 0

/-- The status block (R141, R181). -/
def statusBlock (writeCount : BitVec 32) (writeTime : Time) (f : StatusFields) : List Beat :=
  beatsOf 16
    (leBytes 4 writeCount.toNat ++ leBytes 4 writeTime.toNat ++ leBytes 4 f.driveCycle.toNat ++
      leBytes 4 f.produce.toNat ++ leBytes 4 f.consume.toNat ++
      [BitVec.ofNat 8 f.backlog, BitVec.ofNat 8 f.mode.code,
        BitVec.ofNat 8 (match f.hold with
          | some m => m.code + 1
          | none => 0),
        BitVec.ofNat 8 ((if f.safeLeft then 1 else 0) + (if f.safeRight then 2 else 0) + (if f.attention then 4 else 0)),
        BitVec.ofNat 8 f.activity.code, if f.lock then 1 else 0, BitVec.ofNat 8 f.active, BitVec.ofNat 8 f.usable] ++
      leBytes 4 f.nextRecord.toNat ++ f.left.bytes ++ f.right.bytes ++
      f.faultCodes.map (BitVec.ofNat 8) ++ List.replicate 134 0)

/-- An immediate or completion result record (R175, R181). -/
def ResultImage.record (x : ResultImage) : Beat :=
  beatOf (leBytes 4 x.issue.toNat ++ [BitVec.ofNat 8 x.code.number, 0, 0, 0] ++ leBytes 8 x.detail.toNat)

/-- The detail of an apply's DONE: the number of clamped fields and the first four indices (R181). -/
def clampDetail (clamped : List Nat) : BitVec 64 :=
  (beatOf (BitVec.ofNat 8 clamped.length ::
    ((clamped.take 4).map (BitVec.ofNat 8) ++ List.replicate (4 - clamped.length) 0xFF))).setWidth 64

/-- The detail of an apply's BAD_ARGUMENT or NOT_STOPPED: the field index in byte 9 (R181). -/
def indexDetail (i : Nat) : BitVec 64 := (BitVec.ofNat 8 i).setWidth 64 <<< 8

/-- The anchor result word (R169, R181): bytes 12..15 of the anchor record. -/
def anchorResult (code : ResultCode) (b13 b14 : Nat) : BitVec 32 :=
  (0 : Byte) ++ BitVec.ofNat 8 b14 ++ BitVec.ofNat 8 b13 ++ BitVec.ofNat 8 code.number

/-! ## The history store (R143, R181) -/

/-- The marker values (R181). -/
def markerActive : BitVec 32 := 0xFFFFFF00
def markerFull : BitVec 32 := 0xFFFF0000
def markerRetired : BitVec 32 := 0x00000000

/-- An erased word. -/
def erasedWord : Beat := BitVec.allOnes 128

/-- The header of a sector after a marker has been programmed over `w` (R143). -/
def programMarker (w : Beat) : Marker → Beat
  | .full => w.extractLsb' 32 96 ++ markerFull
  | .active serial => w.extractLsb' 64 64 ++ serial ++ markerActive
  | .retired => w.extractLsb' 32 96 ++ markerRetired

/-- The sector state a header spells (R143). -/
def headerState (w : Beat) : SectorState :=
  if w = erasedWord then .erased
  else if w.extractLsb' 0 32 = markerActive ∧ w.extractLsb' 32 32 ≠ BitVec.allOnes 32 then .active
  else if w.extractLsb' 0 32 = markerFull then .full
  else if w.extractLsb' 0 32 = markerRetired then .retired
  else .invalid

/-- The serial in a header (R143). -/
def headerSerial (w : Beat) : BitVec 32 := w.extractLsb' 32 32

/-- What a header program that did not end well leaves of `w`: every bit as it was or programmed, so that the serial
changes under an ACTIVE marker only and bytes 8 to 15 stay erased (R143, R181, log entry 7). -/
def partialHeader (w : Beat) (m : Marker) (free : BitVec 128) : Beat := programMarker w m ||| (w &&& free)

/-- A marker between two values (R143). -/
def tornMarker : Marker → BitVec 32
  | .active _ => 0xFFFFFF7F
  | .full => 0xFFFF7F00
  | .retired => 0x7FFF0000

/-- What an interrupted header program leaves of `w`: a partial value that reads INVALID (R143, R149, R150). -/
def tornHeader (w : Beat) (m : Marker) (free : BitVec 128) : Beat :=
  let x := partialHeader w m free
  if headerState x = .invalid then x else x.extractLsb' 32 96 ++ tornMarker m

/-- The header while an erase is in progress or after it was interrupted: INVALID, bytes 8 to 15 erased as they were,
and otherwise free (R143, R150, R181, log entry 7). -/
def tornErase (free : BitVec 128) : Beat :=
  let x : Beat := BitVec.allOnes 64 ++ free.extractLsb' 0 64
  if headerState x = .invalid then x else x.extractLsb' 32 96 ++ (0x7FFFFFFF : BitVec 32)

/-- What a record program that did not end well leaves of an erased position: some bits of the content while the commit
byte is erased, or the whole content under some bits of the commit byte, which is programmed last (R145, R181, log
entry 7). -/
def partialRecord (content : Beat) (free : BitVec 128) : Beat :=
  if free.extractLsb' 120 8 = (0xFF : Byte) then content ||| free
  else free.extractLsb' 120 8 ++ content.extractLsb' 0 120

/-- A position that a failed or interrupted program leaves spoiled (R143, R145, R150). -/
def spoiledRecord (content : Beat) (free : BitVec 128) : Beat :=
  let x := partialRecord content free
  if x.extractLsb' 120 8 ≠ 0 ∧ x ≠ erasedWord then x else (0x7F : Byte) ++ content.extractLsb' 0 120

/-- A position is empty (R143, R181). -/
def isEmptyPosition (w : Beat) : Bool := w == erasedWord

/-- A position is committed (R143, R181). -/
def isCommitted (w : Beat) : Bool := w.extractLsb' 120 8 == 0

/-- The content of a history record, its commit byte still erased (R143, R145, R181). -/
def historyContent (number cycle : BitVec 32) (i : Nat) (e : FaultEntry) : Beat :=
  beatOf
    (leBytes 4 number.toNat ++ leBytes 2 cycle.toNat ++
      [BitVec.ofNat 8 i, BitVec.ofNat 8 (if isEvent i then 4 else e.state.code)] ++ leBytes 2 e.occurrences ++
      leBytes 2 (e.lastSequence.getD 0).toNat ++ leBytes 3 ((e.lastSeen.getD 0).toNat / 1000) ++ [0xFF])

/-- The record with its commit byte programmed (R143). -/
def commitRecord (content : Beat) : Beat := (0 : Byte) ++ content.extractLsb' 0 120

/-- The word at a position of a sector; position 0 is the header (R143). -/
def History.word (h : History) (sector position : Nat) : Beat := (h.sectors.getD sector []).getD position erasedWord

/-- The word at a position of a sector replaced. -/
def History.setWord (h : History) (sector position : Nat) (w : Beat) : History :=
  { h with sectors := updateAt h.sectors sector fun l => l.set position w }

end Sys2Proof.Machine
end

