-- ==== Sys2Proof/Machine/Supervisor.lean ====
section
/-! DEFINITION. The fault supervisor (chapter 8): evidence, debounce and healing, the hand-off of transitions to the
report backlog and the store queue, and blanking. -/

namespace Sys2Proof.Machine

/-- Evidence for a fault entry (R117, R119): a pass, or a fail or occurrence with its detail, the frame sequence it
names, and its time. Whether a fail is a fail or an occurrence follows from the kind. -/
inductive Evidence where
  | pass
  | fail (detail : BitVec 56) (sequence : Option (BitVec 32)) (time : Time)
deriving DecidableEq, Repr

/-- The confirm count an entry uses (R117). -/
def confirmCount (c : Counts) (i : Nat) : Nat := if i < 2 then c.freeze else if i < 4 then c.safety else c.warning

/-- The heal count an entry uses (R117). -/
def healCount (c : Counts) (i : Nat) : Nat := if i < 4 then c.safetyHeal else c.warningHeal

/-- A count raised by one that saturates (R119, R124). -/
def raise (limit n : Nat) : Nat := min limit (n + 1)

namespace FaultEntry

/-- What a fail or an occurrence records in its entry (R119). -/
def record (e : FaultEntry) (detail : BitVec 56) (sequence : Option (BitVec 32)) (time : Time) : FaultEntry :=
  { e with
    lastSeen := some time
    firstSeen := some (e.firstSeen.getD time)
    detail := some detail
    lastSequence := sequence.or e.lastSequence }

/-- An entry into ACTIVE (R119, R120, R121). -/
def activate (e : FaultEntry) : FaultEntry :=
  { e with state := .active, debounce := 0, heal := 0, occurrences := raise 65535 e.occurrences }

/-- A fail of a counted kind under the confirm count `c` (R120, R121). -/
def fail (e : FaultEntry) (c : Nat) : FaultEntry × Option Transition :=
  match e.state with
  | .clear =>
    if c ≤ 1 then (e.activate, some .toActive) else ({ e with state := .suspect, debounce := 1 }, none)
  | .suspect =>
    if c ≤ e.debounce + 1 then (e.activate, some .toActive) else ({ e with debounce := e.debounce + 1 }, none)
  | .active => ({ e with heal := 0 }, none)
  | .recovered => (e.activate, some .toActive)

/-- A pass of a counted kind under the heal count `h` (R120, R121). -/
def pass (e : FaultEntry) (h : Nat) (latched : Bool) : FaultEntry × Option Transition :=
  match e.state with
  | .clear => (e, none)
  | .suspect =>
    if e.debounce ≤ 1 then ({ e with state := .clear, debounce := 0 }, none)
    else ({ e with debounce := e.debounce - 1 }, none)
  | .active =>
    if h ≤ e.heal + 1 then
      if latched then ({ e with state := .recovered, heal := 0 }, some .toRecovered)
      else ({ e with state := .clear, heal := 0 }, some .toClear)
    else ({ e with heal := e.heal + 1 }, none)
  | .recovered => (e, none)

/-- One piece of evidence applied to an entry (R119 to R122). -/
def judge (e : FaultEntry) (counts : Counts) (i : Nat) : Evidence → FaultEntry × Option Transition
  | .pass => if isEvent i then (e, none) else e.pass (healCount counts i) (isSafety i)
  | .fail d n t =>
    let e := e.record d n t
    if isEvent i then ({ e with occurrences := raise 65535 e.occurrences }, some .occurred)
    else e.fail (confirmCount counts i)

/-- The entry after a reported transition (R124). -/
def report (e : FaultEntry) (tr : Transition) : FaultEntry :=
  match e.pending with
  | none => { e with pending := some tr, superseded := 0 }
  | some _ => { e with pending := some tr, superseded := raise 255 e.superseded }

end FaultEntry

namespace State

/-- `s` with one fault entry replaced. -/
def setFault (s : State) (i : Nat) (e : FaultEntry) : State := s.setFaults (s.faults.set i e)

/-- The view state after a SAFETY entry of the view may have entered or left ACTIVE (R6, R126). -/
def reblank (s : State) (v : Side) : State :=
  let x := s.view v
  match x.state with
  | .running => if s.safetyActive v then s.setView v { x with state := .blanked } else s
  | .blanked => if s.safetyActive v then s else s.setView v { x with state := .running }
  | .stopped => s
  | .starting => s

/-- A reported transition of an entry reaches the report writer (R124, R135, R137, R138, R142): the entry joins or
supersedes, a record write of it in flight is overtaken, and every entry but MEMORY_ERROR releases a held writer and
resumes suspended status writes. -/
def reportTransition (s : State) (i : Nat) (tr : Transition) : State :=
  let e := s.fault i
  let r := s.report
  let backlog := if e.pending.isNone then r.backlog ++ [i] else r.backlog
  let flight := r.flight.map fun f => if f.entry = i then { f with overtaken := true } else f
  let r := { r with backlog := backlog, flight := flight }
  let r :=
    if i = memoryErrorEntry then r
    else { r with held := false, status := { r.status with suspended := false } }
  (s.setFault i (e.report tr)).setReport r

/-- The entry stands in the store queue, or is placed there: the first confirmation or occurrence in a drive cycle, and
a later one whose stored-this-cycle flag is clear (R125). -/
def placeInQueue (s : State) (i : Nat) : State :=
  let e := s.fault i
  if s.history.queue.contains i || (e.confirmed && e.stored) then s.setFault i { e with confirmed := true }
  else
    (s.setFault i { e with confirmed := true }).setHistory
      { s.history with queue := s.history.queue ++ [i] }

/-- The hand-offs of one reported transition, made together (R118, R124 to R126). -/
def handOff (s : State) (i : Nat) (tr : Transition) : State :=
  let s := s.reportTransition i tr
  let s := if isStored i && (tr = .toActive || tr = .occurred) then s.placeInQueue i else s
  match entrySide i with
  | some v => if isSafety i then s.reblank v else s
  | none => s

/-- Evidence for an entry whose view is not STOPPED, or for a device entry, applied whole (R118). -/
def evidenceOnce (s : State) (i : Nat) (ev : Evidence) : State :=
  let stopped : Bool :=
    match entrySide i with
    | some v => (s.view v).state == .stopped
    | none => false
  if stopped then s
  else
    match (s.fault i).judge s.counts i ev with
    | (e, none) => s.setFault i e
    | (e, some tr) => (s.setFault i e).handOff i tr

/-- The stored-this-cycle flag of every listed entry is clear: the requests of these entries are discarded (R125, R145,
R147, log entry 44). -/
def clearStored (s : State) (l : List Nat) : State :=
  s.setFaults (s.faults.mapIdx fun i e => if i ∈ l then { e with stored := false } else e)

/-- The detail of STORE_FAULT (R181). -/
def storeDetail (operation sector position : Nat) : BitVec 56 := detailBytes operation sector position

/-- While the store is DISABLED, the requests in its queue are discarded, each with a further fail of STORE_FAULT; such
a fail can itself place STORE_FAULT in the queue once, so two rounds empty it (R147). -/
def discardWhileDisabled (s : State) : Nat → State
  | 0 => s
  | n + 1 =>
    if s.history.disabled then
      match s.history.queue with
      | [] => s
      | i :: rest =>
        discardWhileDisabled
          (((s.setHistory { s.history with queue := rest }).clearStored [i]).evidenceOnce storeFaultEntry
            (.fail (storeDetail 3 0xFF 0) none s.timebase)) n
    else s

/-- Evidence for an entry (R118), with what a DISABLED store makes of a request it places (R147). -/
def evidence (s : State) (i : Nat) (ev : Evidence) : State := (s.evidenceOnce i ev).discardWhileDisabled 2

/-- A fail or an occurrence of a view kind. -/
def failView (s : State) (k : ViewKind) (v : Side) (d : BitVec 56) (n : Option (BitVec 32)) (t : Time) : State :=
  s.evidence (entryIndex k v) (.fail d n t)

/-- A pass of a view kind. -/
def passView (s : State) (k : ViewKind) (v : Side) : State := s.evidence (entryIndex k v) .pass

/-- MEMORY_ERROR occurs: its source code, its view byte and its address (R163, R181). -/
def memoryError (s : State) (source view : Byte) (addr : Addr) : State :=
  s.evidence memoryErrorEntry (.fail (detailAddress source view addr) none s.timebase)

/-- An error answer to own traffic makes MEMORY_ERROR occur (R163). -/
def ownError (s : State) (src : OwnSource) (addr : Addr) : State := s.memoryError src.code 0xFF addr

/-- A fail of STORE_FAULT (R145 to R147). -/
def storeFail (s : State) (operation sector position : Nat) : State :=
  s.evidence storeFaultEntry (.fail (storeDetail operation sector position) none s.timebase)

/-- A pass of STORE_FAULT; none is given while the store is DISABLED (R145, R147). -/
def storePass (s : State) : State := if s.history.disabled then s else s.evidence storeFaultEntry .pass

end State

/-- An error response of memory (R35). -/
def isError (r : Resp) : Bool := r == .slverr || r == .decerr

/-- The response returned upstream for one of memory: a DECERR becomes SLVERR (R34, R64). -/
def upstreamResp (error : Bool) : Resp := if error then .slverr else .okay

end Sys2Proof.Machine
end

