-- ==== Sys2Proof/Machine/Develop.lean ====
section
/-! DEFINITION. Developing the capture stream and measuring it: the merge and tone map of one pixel (R37, R38), the
developed pair (R39), the tile records (R43 to R45) and the signature (R46). -/

namespace Sys2Proof.Machine

/-- The merged exposure value E of a pixel (R37). -/
def mergeExposures (p : Snapshot) (yl ys : Nat) : Nat :=
  let l := yl - p.black
  let s := ys - p.black
  let w := min (yl - p.knee) 256
  (l * (256 - w) + s * p.ratio * w + 128) / 256

/-- The developed luma of a merged value (R38, steps 4 to 6; the floor of step 6 rounds toward minus infinity). -/
def toneMap (p : Snapshot) (e : Nat) : Nat :=
  let c := min (e / 2 ^ p.shift) 4095
  let i := c / 64
  let f := c % 64
  let a : Int := p.curve.getD i 0
  let b : Int := p.curve.getD (i + 1) 0
  (a + ((b - a) * f + 32) / 64).toNat

/-- A developed pixel: its luma and its merged value. -/
structure Pixel where
  luma : Nat
  merged : Nat
deriving DecidableEq, Repr

/-- The development of one pixel from its two 12-bit samples (R37, R38). -/
def developPixel (p : Snapshot) (yl ys : Nat) : Pixel :=
  let e := mergeExposures p yl ys
  { luma := toneMap p e, merged := e }

/-- A developed pair: its two pixels and its word (R39). -/
structure Pair where
  first : Pixel
  second : Pixel
  word : BitVec 32
deriving DecidableEq, Repr

/-- The development of one raw pair word (R39, R179). -/
def developPair (p : Snapshot) (raw : BitVec 64) : Pair :=
  let a := developPixel p (raw.extractLsb' 0 12).toNat (raw.extractLsb' 12 12).toNat
  let b := developPixel p (raw.extractLsb' 24 12).toNat (raw.extractLsb' 36 12).toNat
  { first := a
    second := b
    word := pairWord (BitVec.ofNat 8 a.luma) (raw.extractLsb' 48 8) (BitVec.ofNat 8 b.luma) (raw.extractLsb' 56 8) }

/-- The tile of a pixel (R43). -/
def tileIndex (g : Geometry) (x y : Nat) : Nat := y / (g.h / 8) * 16 + x / (g.w / 16)

/-- The left pixel of a pair, from its pair index (R39). -/
def pairPosition (g : Geometry) (k : Nat) : Nat × Nat := (2 * (k % (g.w / 2)), k / (g.w / 2))

/-- A pixel added to its tile record (R45). -/
def addPixel (threshold : Nat) (p : Pixel) (t : Tile) : Tile where
  lumaSum := t.lumaSum + p.luma
  glareCount := if threshold ≤ p.merged then t.glareCount + 1 else t.glareCount

/-- The signature after one developed word (R46). -/
def foldSignature (signature word : BitVec 32) : BitVec 32 := signature.rotateLeft 1 ^^^ word

/-- The frame's statistics after one developed pair, whose pixels lie in one tile (R43, R45, R46). -/
def Frame.addPair (f : Frame) (g : Geometry) (k : Nat) (p : Pair) : Frame :=
  let tile := tileIndex g (pairPosition g k).1 (pairPosition g k).2
  { f with
    tiles := updateAt f.tiles tile fun t =>
      addPixel f.snapshot.glareThreshold p.second (addPixel f.snapshot.glareThreshold p.first t)
    signature := foldSignature f.signature p.word }

/-- The two pairs of a beat, developed under a snapshot (R39). -/
def developBeat (p : Snapshot) (data : Beat) : Pair × Pair :=
  (developPair p (data.extractLsb' 0 64), developPair p (data.extractLsb' 64 64))

/-- The eight developed bytes of a beat (R31). -/
def developedBytes (p : Snapshot) (data : Beat) : BitVec 64 :=
  (developBeat p data).2.word ++ (developBeat p data).1.word

/-- The frame after the beat at aperture offset `o` has been developed: its statistics, its fill point and its gap flag
(R28, R45). -/
def Frame.take (f : Frame) (g : Geometry) (o : Nat) (data : Beat) : Frame :=
  let d := developBeat f.snapshot data
  let f' := (f.addPair g (o / 8) d.1).addPair g (o / 8 + 1) d.2
  { f' with fillPoint := o + 16, gap := f.gap || decide (f.fillPoint < o) }

end Sys2Proof.Machine
end

