-- ==== Sys2Proof/Machine/Slots.lean ====
section
/-! DEFINITION. The frame slot controller (chapter 1): slots, the capture strobe's settling, choice and set-up, the
choice of the flip, and the taking of pending settings (R173). -/

namespace Sys2Proof.Machine

/-- A slot becomes FREE: its frame is absent (R8, R12, R16, R18). -/
def Slot.toFree (sl : Slot) : Slot := { sl with state := .free, pinRequest := false, frame := none }

/-- A slot leaves SHOWN (R13, R18). -/
def Slot.leaveShown (sl : Slot) : Slot :=
  if sl.pinRequest then { sl with state := .pinned, pinRequest := false }
  else if sl.reads ≠ 0 then { sl with state := .draining }
  else sl.toFree

/-- A slot as a settings block builds it (R24). -/
def Slot.built (base : Addr) : Slot :=
  { state := .free, pinRequest := false, base := base, reads := 0, frame := none }

/-- The sequence of the frame a slot holds. -/
def Slot.sequence (sl : Slot) : Option (BitVec 32) := sl.frame.map Frame.sequence

/-- The last read charged to a slot has come back, or one of several has (R16, R63). -/
def Slot.lowerReads (sl : Slot) : Slot :=
  let sl' := { sl with reads := sl.reads - 1 }
  if sl'.state = .draining ∧ sl'.reads = 0 then sl'.toFree else sl'

namespace View

def slot? (x : View) (i : Nat) : Option Slot := x.slots[i]?

/-- The view with one slot changed. -/
def modifySlot (x : View) (i : Nat) (f : Slot → Slot) : View := { x with slots := updateAt x.slots i f }

/-- The slot is FILLING with the frame of that sequence (R11, R28). -/
def fillingWith (x : View) (i : Nat) (n : BitVec 32) : Option Frame :=
  match x.slot? i with
  | some sl =>
    if sl.state = .filling then sl.frame.filter fun f => f.sequence == n else none
  | none => none

/-- The lowest-indexed FREE slot (R9). -/
def freeSlot (x : View) : Option Nat := firstIndex (fun sl => sl.state == .free) x.slots

/-- Among the READY slots, the one whose frame sequence comes first in an order (R9, R13). -/
def bestReady (before : Nat → Nat → Bool) (x : View) : Option Nat :=
  (x.slots.zipIdx.foldl
    (fun (best : Option (Nat × Nat)) (sl, i) =>
      match sl.state, sl.frame with
      | .ready, some f =>
        match best with
        | some (n, j) => if before f.sequence.toNat n then some (f.sequence.toNat, i) else some (n, j)
        | none => some (f.sequence.toNat, i)
      | _, _ => best)
    none).map Prod.snd

/-- The oldest finished frame not yet shown (R9). -/
def oldestReady (x : View) : Option Nat := x.bestReady fun a b => decide (a < b)

/-- The newest finished frame (R13). -/
def newestReady (x : View) : Option Nat := x.bestReady fun a b => decide (b < a)

/-- The slot chosen for a new frame (R9). -/
def chooseSlot (x : View) : Option Nat := x.freeSlot.or x.oldestReady

end View

namespace State

/-- The pending development part of a view becomes current (R173). -/
def takeDev (s : State) (v : Side) : State :=
  let x := s.view v
  match x.pendingDev with
  | some d => (s.setViewSettings v { s.viewSettings v with dev := d }).setView v { x with pendingDev := none }
  | none => s

/-- The pending flip part of a view becomes current, its inversion flag with it (R111, R173). -/
def takeFlip (s : State) (v : Side) : State :=
  let x := s.view v
  match x.pendingFlip with
  | some f =>
    (s.setViewSettings v { s.viewSettings v with flip := f }).setView v
      { x with pendingFlip := none, inverted := f.inversion }
  | none => s

/-- The development parameters in force, as a snapshot: the mode selects the tone curve (R36, R79). -/
def snapshot (s : State) (v : Side) : Snapshot :=
  let d := (s.viewSettings v).dev
  { black := d.black
    ratio := d.ratio
    knee := d.knee
    shift := d.shift
    curve := if s.ladder.mode = .night then d.curveB else d.curveA
    glareThreshold := d.glareThreshold }

end State

/-- A frame at its capture strobe (R10). -/
def Frame.opened (n : BitVec 32) (t : Time) (p : Snapshot) : Frame where
  sequence := n
  captureTime := t
  fillPoint := 0
  gap := false
  writes := 0
  signature := 0
  tiles := List.replicate Config.tileCount { lumaSum := 0, glareCount := 0 }
  snapshot := p
  staleLatched := false

/-- The frame sequence after one that is given out; none after 0xFFFF_FFFF (R7). -/
def nextSequenceAfter (n : BitVec 32) : Option (BitVec 32) :=
  if n = BitVec.allOnes 32 then none else some (n + 1)

/-- What settling the frame in capture leaves (R8): the slot that is reused, and the evidence. -/
structure Settled where
  view : View
  reuse : Option Nat
  evidence : Option (ViewKind × BitVec 56 × BitVec 32)

/-- The frame in capture is settled (R8). -/
def View.settle (x : View) : Settled :=
  match x.capture with
  | .slotted i =>
    match (x.slot? i).bind Slot.frame with
    | some f =>
      if f.fillPoint = 0 then { view := x, reuse := some i, evidence := some (.emptyFrame, 0, f.sequence) }
      else
        { view := x.modifySlot i Slot.toFree, reuse := none,
          evidence := some (.shortFrame, detailWord 0 f.fillPoint, f.sequence) }
    | none => { view := x, reuse := none, evidence := none }
  | .none => { view := x, reuse := none, evidence := none }
  | .unslotted _ => { view := x, reuse := none, evidence := none }

/-- The new frame after the settling (R7, R9, R10): the reused or the chosen slot is set up, or the frame is unslotted;
with the sequence exhausted a slot that would be reused becomes FREE and no slot fills. -/
def View.openFrame (x : View) (reuse : Option Nat) (t : Time) (p : Snapshot) : View :=
  match x.nextSequence with
  | none =>
    let x := match reuse with
      | some i => x.modifySlot i Slot.toFree
      | none => x
    { x with capture := .unslotted none }
  | some n =>
    let x := { x with nextSequence := nextSequenceAfter n }
    match reuse.or x.chooseSlot with
    | some i =>
      { x.modifySlot i (fun sl =>
          { sl with state := .filling, pinRequest := false, frame := some (.opened n t p) }) with
        capture := .slotted i }
    | none => { x with capture := .unslotted (some n) }

/-- The evidence of the settling is given (R8). -/
def State.giveSettled (s : State) (v : Side) (e : Option (ViewKind × BitVec 56 × BitVec 32)) (t : Time) : State :=
  match e with
  | some (k, d, n) => s.failView k v d (some n) t
  | none => s

/-- A capture strobe the view takes (R8 to R10), at its latched time. -/
def State.takeCaptureStrobe (s : State) (v : Side) (t : Time) : State :=
  let s := s.takeDev v
  let settled := (s.view v).settle
  let s := s.setView v (settled.view.openFrame settled.reuse t (s.snapshot v))
  s.giveSettled v settled.evidence t

/-- The slots after a flip that shows slot `i` (R13). -/
def flipSlots (slots : List Slot) (i : Nat) : List Slot :=
  slots.mapIdx fun j sl =>
    if j = i then { sl with state := .shown }
    else
      match sl.state with
      | .ready => sl.toFree
      | .shown => sl.leaveShown
      | _ => sl

/-- The choice of the flip: the view with its new SHOWN slot, or unchanged at a repeat (R13, R15). -/
def View.flip (x : View) : View × Bool :=
  match x.newestReady with
  | some i => ({ x with slots := flipSlots x.slots i, shown := some i }, true)
  | none => (x, false)

/-- The frame of the SHOWN slot. -/
def View.shownFrame (x : View) : Option Frame := x.shown.bind fun i => (x.slot? i).bind Slot.frame

end Sys2Proof.Machine
end

