-- ==== Sys2Proof/Machine/Ladder.lean ====
section
/-! DEFINITION. The illumination ladder (chapter 5) and the evaluations at the completion of a READY frame (chapter 3). -/

namespace Sys2Proof.Machine

/-- The level of a view that takes part in L: the view is RUNNING and its level valid (R74). -/
def View.ladderLevel (x : View) : Option Nat :=
  if x.state = .running ∧ x.levelValid = true then some x.level else none

/-- The ladder's level L; absent when neither view qualifies (R74). -/
def State.ladderLevel (s : State) : Option Nat :=
  match (s.view .left).ladderLevel, (s.view .right).ladderLevel with
  | some a, some b => some (max a b)
  | some a, none => some a
  | none, b => b

/-- What the tests of the current mode find (R76). -/
inductive LadderTest where
  | force
  | candidate (c : Candidate)
  | nothing
deriving DecidableEq, Repr

/-- The tests of a mode, in order (R76). -/
def ladderTest (f : LadderFields) (m : Mode) (l : Nat) : LadderTest :=
  match m with
  | .day => if l < f.duskEnter then .candidate .dayToDusk else .nothing
  | .dusk =>
    if f.dayForce ≤ l then .force
    else if l < f.nightEnter then .candidate .duskToNight
    else if f.duskExit ≤ l then .candidate .duskToDay
    else .nothing
  | .night =>
    if f.dayForce ≤ l then .force else if f.nightExit ≤ l then .candidate .nightToDusk else .nothing

/-- The mode a transition leads to (R76). -/
def Candidate.target : Candidate → Mode
  | .dayToDusk => .dusk
  | .duskToNight => .night
  | .nightToDusk => .dusk
  | .duskToDay => .day

/-- The dwell of a transition, in µs (R77). -/
def Candidate.dwell (f : LadderFields) : Candidate → Nat
  | .dayToDusk => f.dwellDown * 1000
  | .duskToNight => f.dwellDown * 1000
  | .nightToDusk => f.dwellUp * 1000
  | .duskToDay => f.dwellUp * 1000

/-- The start time of a candidate: kept if it is the pending condition, now otherwise (R77). -/
def Ladder.since (d : Ladder) (c : Candidate) (now : Time) : Time :=
  match d.pending with
  | some (c', t) => if c' = c then t else now
  | none => now

/-- One evaluation (R76, R77). -/
def Ladder.evaluate (d : Ladder) (f : LadderFields) (l : Option Nat) (now : Time) : Ladder :=
  match d.hold with
  | some _ => { d with pending := none }
  | none =>
    match l.map (ladderTest f d.mode) with
    | none => { d with pending := none }
    | some .nothing => { d with pending := none }
    | some .force => { d with mode := .day, pending := none }
    | some (.candidate c) =>
      let start := d.since c now
      if reaches (elapsed start now) (c.dwell f) then { d with mode := c.target, pending := none }
      else { d with pending := some (c, start) }

/-- The scene level of a frame (R50). -/
def sceneLevel (g : Geometry) (f : Frame) : Nat := (f.tiles.map Tile.lumaSum).sum / (g.w * g.h)

/-- The dark tiles of a frame (R51). -/
def darkTiles (g : Geometry) (dark : Nat) (f : Frame) : Nat :=
  (f.tiles.filter fun t => decide (t.lumaSum / g.tilePixels < dark)).length

/-- The mode that HOLD_MODE names (R180); 3 is RELEASE. -/
def heldMode (m : Byte) : Option Mode :=
  if m = 0 then some .day else if m = 1 then some .dusk else if m = 2 then some .night else none

namespace State

/-- The ladder fields in force (R75). -/
def ladderFields (s : State) : LadderFields :=
  match s.attach.current with
  | some c => c.ladder
  | none =>
    { nightEnter := 0, nightExit := 1, duskEnter := 1, duskExit := 2, dayForce := 2, dwellDown := 0, dwellUp := 0 }

/-- The freeze comparison of a READY frame (R49). -/
def freezeComparison (s : State) (v : Side) (f : Frame) : State :=
  let s' :=
    match (s.view v).lastSignature with
    | none => s
    | some g =>
      if f.signature = g then
        s.failView .frozenFeed v (detailWord 0 f.signature.toNat) (some f.sequence) s.timebase
      else s.passView .frozenFeed v
  s'.setView v { s'.view v with lastSignature := some f.signature }

/-- The scene level becomes the view's latest level, and the ladder evaluates it (R48, R50, R76). -/
def takeLevel (s : State) (v : Side) (f : Frame) : State :=
  let s := s.setView v { s.view v with level := sceneLevel (s.geometry v) f, levelValid := true }
  s.setLadder (s.ladder.evaluate s.ladderFields s.ladderLevel s.timebase)

/-- The mode the ladder holds once a HOLD_MODE that arrived with the completion has been taken too (R54, R82): one that
has been handed over and is not carried out yet sets its mode whatever the completion's level made (DESIGN CHOICE, log
entry 33: which HOLD_MODE arrives with a completion). A RELEASE leaves the mode. -/
def modeWithHold (s : State) : Mode :=
  match s.attach.inHand.map fun (h : Handover) => h.record.command with
  | some (.holdMode m) => (heldMode m).getD s.ladder.mode
  | _ => s.ladder.mode

/-- The blockage evaluation of a READY frame, made in DAY only (R51): the mode is the one the ladder holds once it has
taken both the completion's level and a HOLD_MODE that arrived with it, in whichever order (R54). -/
def blockageEvaluation (s : State) (v : Side) (f : Frame) : State :=
  if s.modeWithHold = .day then
    let n := darkTiles (s.geometry v) (s.limits v).darkLevel f
    let o := s.view (other v)
    if (s.limits v).blockedTiles ≤ n ∧ o.state = .running ∧ o.levelValid = true ∧ s.ladderFields.duskExit ≤ o.level then
      s.failView .viewBlocked v (detailBytes n (s.view v).level o.level) (some f.sequence) s.timebase
    else s.passView .viewBlocked v
  else s

/-- The statistics unit's work at a READY completion (R48). -/
def evaluateFrame (s : State) (v : Side) (f : Frame) : State :=
  ((s.freezeComparison v f).takeLevel v f).blockageEvaluation v f

/-- Completion of the frame in a FILLING slot (R12). -/
def complete (s : State) (v : Side) (i : Nat) (f : Frame) : State :=
  let x := { s.view v with capture := InCapture.none }
  if f.gap then
    ((s.setView v (x.modifySlot i Slot.toFree)).failView .gappedFrame v 0 (some f.sequence) s.timebase).passView
      .shortFrame v
  else
    let s := s.setView v (x.modifySlot i fun sl => { sl with state := .ready })
    ((s.passView .gappedFrame v).passView .shortFrame v).evaluateFrame v f

end State

end Sys2Proof.Machine
end

