-- ==== Sys2Proof/Machine/Glare.lean ====
section
/-! DEFINITION. The glare controller (chapter 6), the pan slew (R70), the backlight ramp (R112), the measurements of
the timebase and strobe unit at a flip (R105 to R107), and the flip as a whole (R13 to R15). -/

namespace Sys2Proof.Machine

/-! ## Glare -/

/-- The target of a tile with glare count `g` (R86). -/
def glareTarget (f : FlipFields) (tilePixels g : Nat) : Nat :=
  if f.glareMin ≤ g then max f.gainFloor (256 - min 256 (g * f.slope / tilePixels)) else Config.fullGain

/-- List order: highest glare count first, among equal counts lowest tile index first (R84). -/
def glareBefore (a b : GlareEntry) : Bool :=
  decide (b.count < a.count) || (a.count == b.count && decide (a.tile < b.tile))

/-- Step a: entries below a raised gain floor are lifted to it (R95). -/
def liftToFloor (old new : Nat) (l : List GlareEntry) : List GlareEntry :=
  if old < new then l.map fun e => { e with target := max new e.target, gain := max new e.gain } else l

/-- Step b: every target is 256 in DAY and DUSK (R94). -/
def releaseAll (l : List GlareEntry) : List GlareEntry := l.map fun e => { e with target := Config.fullGain }

/-- The glare count of a tile of a frame. -/
def glareCountOf (tiles : List Tile) (i : Nat) : Nat :=
  match tiles[i]? with
  | some t => t.glareCount
  | none => 0

/-- Step 1: counts and targets from the new SHOWN slot (R88). -/
def updateTargets (f : FlipFields) (tilePixels : Nat) (tiles : List Tile) (l : List GlareEntry) : List GlareEntry :=
  l.map fun e =>
    { e with
      count := glareCountOf tiles e.tile
      target := glareTarget f tilePixels (glareCountOf tiles e.tile) }

/-- The candidates of step 2, in list order (R89). -/
def candidates (f : FlipFields) (tilePixels : Nat) (tiles : List Tile) (l : List GlareEntry) : List GlareEntry :=
  sortBy glareBefore
    ((List.range Config.tileCount).filterMap fun i =>
      let g := glareCountOf tiles i
      if l.any (fun e => e.tile == i) || decide (g < f.glareMin) then none
      else some { tile := i, count := g, target := glareTarget f tilePixels g, gain := Config.fullGain })

/-- The RELEASING entry a candidate displaces: highest current gain, then lowest tile index (R90). -/
def displaced (l : List GlareEntry) : Option GlareEntry :=
  (l.filter fun e => !e.dimming).foldl
    (fun (best : Option GlareEntry) e =>
      match best with
      | none => some e
      | some b => if b.gain < e.gain ∨ (b.gain = e.gain ∧ e.tile < b.tile) then some e else some b)
    none

/-- What admitting candidates leaves: the list, the number left out and the first of them (R89, R90). -/
structure Admission where
  list : List GlareEntry
  refused : Nat
  firstRefused : Nat
deriving DecidableEq, Repr

/-- One candidate admitted by insertion or displacement, or left out (R89, R90). -/
def Admission.offer (a : Admission) (c : GlareEntry) : Admission :=
  if a.list.length < Config.glareCapacity then { a with list := a.list ++ [c] }
  else
    match displaced a.list with
    | some d => { a with list := a.list.filter (fun e => e.tile != d.tile) ++ [c] }
    | none => { a with refused := a.refused + 1, firstRefused := if a.refused = 0 then c.tile else a.firstRefused }

/-- Step 2 (R89, R90). -/
def admitCandidates (f : FlipFields) (tilePixels : Nat) (tiles : List Tile) (l : List GlareEntry) : Admission :=
  (candidates f tilePixels tiles l).foldl Admission.offer { list := l, refused := 0, firstRefused := 0 }

/-- A value moved toward a target by at most one step. -/
def moveToward (down up x target : Nat) : Nat :=
  if target < x then x - min down (x - target) else x + min up (target - x)

/-- Step 3 (R91). -/
def rampGains (f : FlipFields) (l : List GlareEntry) : List GlareEntry :=
  l.map fun e => { e with gain := moveToward f.stepDown f.stepUp e.gain e.target }

/-- Step 4 (R92). -/
def removeReleased (l : List GlareEntry) : List GlareEntry :=
  l.filter fun e => !(e.target == Config.fullGain && e.gain == Config.fullGain)

/-- The work at a flip, steps a to 5 (R87); `oldFloor` is the floor before the flip took its pending fields, and
`tiles` the new SHOWN slot's tile records when the flip shows a new frame. -/
def glareWork (mode : Mode) (f : FlipFields) (oldFloor tilePixels : Nat) (tiles : Option (List Tile))
    (l : List GlareEntry) : Admission :=
  let l := liftToFloor oldFloor f.gainFloor l
  let a : Admission :=
    match mode, tiles with
    | .night, some tiles => admitCandidates f tilePixels tiles (updateTargets f tilePixels tiles l)
    | .night, none => { list := l, refused := 0, firstRefused := 0 }
    | _, _ => { list := releaseAll l, refused := 0, firstRefused := 0 }
  { a with list := sortBy glareBefore (removeReleased (rampGains f a.list)) }

/-! ## Pan and backlight -/

/-- The pan origin after a flip (R70). -/
def slewPan (f : FlipFields) (pan target : Nat × Nat) : Nat × Nat :=
  (moveToward f.panStepX f.panStepX pan.1 target.1, moveToward f.panStepY f.panStepY pan.2 target.2)

/-- The target of the staged duty (R112). -/
def dutyTarget (f : FlipFields) (state : ViewState) (mode : Mode) (dimming : Bool) : Nat :=
  match state with
  | .running =>
    match mode with
    | .day => f.dayDuty
    | .dusk => f.duskDuty
    | .night => if dimming then f.nightDuty - f.glareTrim else f.nightDuty
  | .starting => f.blankDuty
  | .blanked => f.blankDuty
  | .stopped => f.blankDuty

/-- The staged duty after a flip (R112). -/
def rampDuty (f : FlipFields) (staged target : Nat) : Nat :=
  max f.dutyMin (min f.dutyMax (moveToward f.blStep f.blStep staged target))

/-! ## The flip -/

namespace State

/-- The age of the SHOWN frame gives STALE_IMAGE its evidence (R105), and that of a new frame LATE_FRAME (R107). -/
def measureShown (s : State) (v : Side) (i : Nat) (f : Frame) (isNew : Bool) (t : Time) : State :=
  let age := elapsed f.captureTime t
  let stale := f.staleLatched || exceeds age (s.limits v).staleLimit
  let s := s.setView v
    ((s.view v).modifySlot i fun sl => { sl with frame := some { f with staleLatched := stale } })
  let s :=
    if stale then s.failView .staleImage v (detailWord 0 f.captureTime.toNat) (some f.sequence) t
    else s.passView .staleImage v
  if isNew then
    if exceeds age (s.limits v).latencyLimit then
      s.failView .lateFrame v (detailWord 0 age) (some f.sequence) t
    else s.passView .lateFrame v
  else s

/-- The time since START_VIEW gives STALE_IMAGE its evidence (R106). -/
def measureStart (s : State) (v : Side) (t : Time) : State :=
  let start := (s.view v).startTime
  if exceeds (elapsed start t) (s.limits v).startLimit then
    s.failView .staleImage v (detailWord 1 start.toNat) none t
  else s.passView .staleImage v

/-- The measurements at a flip (R105 to R107). -/
def measure (s : State) (v : Side) (isNew : Bool) (t : Time) : State :=
  if (s.view v).state = .starting ∧ isNew = false then s.measureStart v t
  else
    match (s.view v).shown, (s.view v).shownFrame with
    | some i, some f => s.measureShown v i f isNew t
    | _, _ => s

/-- The flip that shows a frame ends STARTING (R14). -/
def endStarting (s : State) (v : Side) (isNew : Bool) : State :=
  let x := s.view v
  if x.state = .starting ∧ isNew = true then
    s.setView v { x with state := if s.safetyActive v then .blanked else .running }
  else s

/-- The glare controller's work at a flip, and GLARE_OVERFLOW (R87, R90). -/
def flipGlare (s : State) (v : Side) (isNew : Bool) (oldFloor : Nat) (t : Time) : State :=
  let x := s.view v
  let tiles := if isNew then x.shownFrame.map Frame.tiles else none
  let a := glareWork s.ladder.mode (s.flipFields v) oldFloor (s.geometry v).tilePixels tiles x.glare
  let s := s.setView v { x with glare := a.list }
  if a.refused = 0 then s
  else
    s.failView .glareOverflow v (detailBytes a.refused a.firstRefused 0) (x.shownFrame.map Frame.sequence) t

/-- The pan origin slews and the staged duty ramps (R70, R112). -/
def flipOutputs (s : State) (v : Side) : State :=
  let x := s.view v
  let f := s.flipFields v
  let dimming := x.glare.any GlareEntry.dimming
  s.setView v
    { x with
      pan := slewPan f x.pan x.panTarget
      staged := rampDuty f x.staged (dutyTarget f x.state s.ladder.mode dimming) }

/-- The flip of a view that takes it, at the time of its display strobe (R13 to R15). -/
def flip (s : State) (v : Side) (t : Time) : State :=
  let oldFloor := (s.flipFields v).gainFloor
  let s := s.takeFlip v
  let (x, isNew) := (s.view v).flip
  let s := (s.setView v x).measure v isNew t
  ((s.endStarting v isNew).flipGlare v isNew oldFloor t).flipOutputs v

end State

end Sys2Proof.Machine
end

