-- ==== Sys2Proof/Machine/Traffic.lean ====
section
/-! DEFINITION. The path unit's shared work (chapter 10): classification, the order of responses and read data upstream,
the write data channel of the memory port, the arbiter's choice, and the charging of memory's answers. -/

namespace Sys2Proof.Machine

/-! ## Classification (R156, R158, R159) -/

/-- The reasons of CAPTURE_REFUSED at an address (R158, R181). -/
def reasonExclusive : Byte := 1
def reasonBurst : Byte := 2
def reasonNarrow : Byte := 3
def reasonInitiator : Byte := 4
def reasonCrossing : Byte := 5

/-- The first check of R158 that a capture write fails. -/
def captureCheck (a : AddrPhase) (initiator mask : BusId) : Option Byte :=
  if a.excl then some reasonExclusive
  else if a.burst ≠ .incr then some reasonBurst
  else if crosses4K a then some reasonCrossing
  else if a.size ≠ 4 then some reasonNarrow
  else if a.id &&& mask ≠ initiator &&& mask then some reasonInitiator
  else none

/-- A write classified as control or plain is compared with the guards, after the 4 KiB rule (R156, R158). -/
def guardWrite (s : State) (a : AddrPhase) (cls : WriteClass) : WriteClass :=
  if crosses4K a then .refused .nothing
  else
    match refusingGuard (guards s) (firstByte a) (endByte a) with
    | some code => .refused (.guardWrite code)
    | none => cls

/-- The class of a fabric write (R156). An exclusive, FIXED or WRAP write to a CONTROL entry is refused by R159, without
evidence, before it is compared with the guards (DESIGN CHOICE, log entry 41). -/
def classifyWrite (s : State) (a : AddrPhase) : WriteClass :=
  if s.attach.state ≠ .attached then .plain
  else
    match findEntry (fun r => r.holds a.addr.toNat) s.table with
    | none => guardWrite s a .plain
    | some (_, r) =>
      match r.kind with
      | .capture v initiator mask =>
        if (s.view v).state = .stopped then .capture v r.base true
        else
          match captureCheck a initiator mask with
          | some reason => .refused (.captureRefused v reason (a.addr.toNat - r.base.toNat))
          | none => .capture v r.base false
      | .view _ => .refused .nothing
      | .control => if a.excl ∨ a.burst ≠ .incr then .refused .nothing else guardWrite s a .control
      | .guard => guardWrite s a .plain

/-- How a fabric read is treated (R156, R157, R159). -/
inductive ReadTreatment where
  | plain
  /-- answered by the path unit, every beat SLVERR and zero -/
  | zeros
  /-- answered by the path unit, every beat SLVERR, the data not stated (log entry 7) -/
  | unstated
  /-- handed to the view read unit; refused there when the path unit refuses it -/
  | view (v : Side) (base : Addr) (refused : Bool)
deriving DecidableEq, Repr

/-- The class of a fabric read (R156). -/
def classifyRead (s : State) (a : AddrPhase) : ReadTreatment :=
  if s.attach.state ≠ .attached then .plain
  else
    match findEntry (fun r => r.holds a.addr.toNat) s.table with
    | none => if crosses4K a then .zeros else .plain
    | some (_, r) =>
      match r.kind with
      | .capture _ _ _ => .zeros
      | .view v => .view v r.base (a.excl || a.burst != .incr || crosses4K a)
      | .control =>
        if crosses4K a then .zeros else if a.excl ∨ a.burst ≠ .incr then .unstated else .plain
      | .guard => if crosses4K a then .zeros else .plain

/-- The record whose bytes the path unit copies as a write's beats pass: the command record of a control write (R160),
the anchor record of a write accepted in TRANSPARENT (R168, log entry 5). -/
def watchOf (s : State) (a : AddrPhase) (cls : WriteClass) : Option (Addr × Nat) :=
  match cls with
  | .control =>
    (findEntry (fun r => r.holds a.addr.toNat) s.table).map fun (_, r) => (r.base, 32)
  | .plain => if s.attach.state = .transparent then some (s.attach.anchor, 16) else none
  | .capture _ _ _ => none
  | .refused _ => none

/-! ## Upstream order (R162) -/

/-- The oldest outstanding write of an upstream ID. -/
def Path.firstWrite (p : Path) (id : BusId) : Option UpWrite := p.writes.find? fun u => u.a.id == id

/-- The oldest outstanding read of an upstream ID. -/
def Path.firstRead (p : Path) (id : BusId) : Option UpRead := p.reads.find? fun u => u.a.id == id

/-- The outstanding write with a tag. -/
def Path.writeOf (p : Path) (tag : Nat) : Option UpWrite := p.writes.find? fun u => u.tag == tag

/-- The outstanding read with a tag. -/
def Path.readOf (p : Path) (tag : Nat) : Option UpRead := p.reads.find? fun u => u.tag == tag

def Path.modifyWrite (p : Path) (tag : Nat) (f : UpWrite → UpWrite) : Path :=
  { p with writes := p.writes.map fun u => if u.tag = tag then f u else u }

def Path.modifyRead (p : Path) (tag : Nat) (f : UpRead → UpRead) : Path :=
  { p with reads := p.reads.map fun u => if u.tag = tag then f u else u }

def Path.dropWrite (p : Path) (tag : Nat) : Path := { p with writes := p.writes.filter fun u => u.tag != tag }

def Path.dropRead (p : Path) (tag : Nat) : Path := { p with reads := p.reads.filter fun u => u.tag != tag }

namespace State

/-- The oldest write of an ID is answered if its response is ready (R162). -/
def releaseWrite (s : State) (id : BusId) : State :=
  match s.path.firstWrite id with
  | some u =>
    match u.ready with
    | some r => (s.setPath (s.path.dropWrite u.tag)).emit [.upResponse id r]
    | none => s
  | none => s

/-- A write's response is ready: it is returned unless an earlier write of its ID is owed its own (R34, R162). -/
def answerWrite (s : State) (tag : Nat) (r : Resp) : State :=
  match s.path.writeOf tag with
  | none => s
  | some u =>
    let s := s.setPath (s.path.modifyWrite tag fun u => { u with ready := some r })
    match s.path.firstWrite u.a.id with
    | some w => if w.tag = tag then s.releaseWrite u.a.id else s
    | none => s

/-- The data held for the oldest read of an ID is returned, and the read is done once all its beats are; a view read is
released by VIEW_READ_RELEASE alone (R162). -/
def releaseRead (s : State) (id : BusId) : State :=
  match s.path.firstRead id with
  | some u =>
    if u.held = [] then s
    else
      let n := u.passed + u.held.length
      let p := if u.a.len ≤ n then s.path.dropRead u.tag
        else s.path.modifyRead u.tag fun u => { u with held := [], passed := n }
      (s.setPath p).emit [.upData id u.held]
  | none => s

/-- Data of a read is inside the part: it is returned unless an earlier read of its ID is still owed (R162). -/
def answerRead (s : State) (tag : Nat) (beats : List RBeat) : State :=
  match s.path.readOf tag with
  | none => s
  | some u =>
    let first : Bool :=
      match s.path.firstRead u.a.id with
      | some w => w.tag == tag
      | none => false
    let wasHeld : Bool := !u.held.isEmpty
    let s := s.setPath (s.path.modifyRead tag fun u => { u with held := u.held ++ beats })
    if first && !wasHeld then s.releaseRead u.a.id else s

end State

/-! ## The memory port -/

/-- The write data channel serves the granted writes in grant order; the one with data to send comes first (R164). -/
def Path.dataHead (p : Path) : Option DownWrite := p.downW.find? fun d => d.unsent != 0

/-- Data beats are sent from the buffers of the granted writes, in grant order, as far as they reach; a write whose data
is not all there holds the channel (R164, log entry 13). -/
def drainWrites : List DownWrite → List DownWrite × List PortEvent
  | [] => ([], [])
  | d :: ds =>
    let n := min d.unsent d.buffer.length
    let sent := (d.buffer.take n).map fun b => PortEvent.downWriteBeat d.a.id b
    let d' := { d with unsent := d.unsent - n, buffer := d.buffer.drop n }
    if d'.unsent = 0 then
      let (ds', events) := drainWrites ds
      (d' :: ds', sent ++ events)
    else (d' :: ds, sent)

/-- The write data channel sends what it can. -/
def State.drain (s : State) : State :=
  let (ds, events) := drainWrites s.path.downW
  (s.setPath { s.path with downW := ds }).emit events

/-- A data beat of the part's own or of a development write is ready to be sent, granted or not (R31). -/
def State.pushData (s : State) (tag : Nat) (b : BeatOut) : State :=
  let push := fun (d : DownWrite) =>
    match d.owner with
    | .dev _ _ _ => if d.tag = tag then { d with buffer := d.buffer ++ [b] } else d
    | _ => d
  (s.setPath { s.path with readyW := s.path.readyW.map push, downW := s.path.downW.map push }).drain

/-- The request a write makes on the memory port is not yet granted, or not yet known (R164). -/
def Path.unresolved (p : Path) (u : UpWrite) : Bool :=
  p.readyW.any (fun d => d.tag == u.tag) ||
    match u.cls with
    | .capture _ _ false => u.left == u.a.len
    | _ => false

/-- A forwarded write is ready: no earlier write of its upstream ID is unresolved (R164, log entry 31). -/
def Path.writeReady (p : Path) (d : DownWrite) : Bool :=
  (p.writes.takeWhile fun u => u.tag != d.tag).all fun u => !(u.a.id == d.upId && p.unresolved u)

/-- The forwarded write that the arbiter grants next (R164). -/
def Path.nextWrite (p : Path) : Option DownWrite := p.readyW.find? p.writeReady

/-- The channel of an own request (R164). -/
def OwnSource.channel : OwnSource → Channel
  | .fetch => .read
  | _ => .write

/-- The oldest own request of a channel (R164). -/
def Path.nextOwn (p : Path) (ch : Channel) : Option OwnRequest := p.own.find? fun r => r.src.channel == ch

/-- The count after a forwarded grant on a channel (R164). -/
def Path.countAfter (p : Path) (ch : Channel) (n : Nat) : Nat := if (p.nextOwn ch).isSome then n + 1 else n

/-- The oldest unanswered memory-port write of an ID, all of whose data has been sent (R162). -/
def Path.answeredWrite (p : Path) (id : BusId) : Option DownWrite :=
  (p.downW.find? fun d => d.a.id == id).filter fun d => d.unsent == 0

/-- The oldest unanswered memory-port read of an ID (R162). -/
def Path.answeredRead (p : Path) (id : BusId) : Option DownRead := p.downR.find? fun d => d.a.id == id

/-- The list without the first element that meets a test. -/
def dropFirst {α : Type} (p : α → Bool) (l : List α) : List α := l.eraseP p

/-- The oldest memory-port write of an ID has been answered (R162). -/
def State.endWrite (s : State) (id : BusId) : State :=
  s.setPath { s.path with downW := dropFirst (fun d => d.a.id == id) s.path.downW }

/-- The oldest memory-port read of an ID has been answered in full (R162). -/
def State.endRead (s : State) (id : BusId) : State :=
  s.setPath { s.path with downR := dropFirst (fun d => d.a.id == id) s.path.downR }

/-- The IDs of development writes and of view read pieces (R162). -/
def viewBusId : Side → BusId
  | .left => 0x3E
  | .right => 0x3F

/-- The byte that names a view in a detail (R181). -/
def viewByte (v : Side) : Byte := BitVec.ofNat 8 (sideIndex v)

end Sys2Proof.Machine
end

