-- ==== Sys2Proof/Machine/ReadPath.lean ====
section
/-! DEFINITION. The view read path (chapter 4): translation and splitting, the charge to the slot, dimming, and what a
burst carries when it is released. -/

namespace Sys2Proof.Machine

/-- The slot offset a view offset is translated to (R60). -/
def slotOffset (g : Geometry) (pan : Nat × Nat) (o : Nat) : Nat :=
  (o / (g.vw * 2) + pan.2) * (g.w * 2) + pan.1 * 2 + o % (g.vw * 2)

/-- The walk of a burst's beats in view order (R61): `n` beats from view offset `o`; `p` is the piece being built. -/
def splitFrom (g : Geometry) (pan : Nat × Nat) (base : Addr) (o : Nat) (p : Piece) : Nat → List Piece
  | 0 => [p]
  | n + 1 =>
    let q := slotOffset g pan o
    if o % (g.vw * 2) = 0 ∨ (base.toNat + q) % 4096 = 0 then
      p :: splitFrom g pan base (o + 16)
        { viewOffset := o, slotOffset := q, addr := BitVec.ofNat 36 (base.toNat + q), len := 1 } n
    else splitFrom g pan base (o + 16) { p with len := p.len + 1 } n

/-- The pieces of a forwarded burst of `len` beats from view offset `o` (R61). -/
def splitBurst (g : Geometry) (pan : Nat × Nat) (base : Addr) (o len : Nat) : List Piece :=
  let q := slotOffset g pan o
  splitFrom g pan base (o + 16)
    { viewOffset := o, slotOffset := q, addr := BitVec.ofNat 36 (base.toNat + q), len := 1 } (len - 1)

/-- The kind of a view read at its acceptance, from view offset `o` (R57 to R59). -/
def readKind (x : View) (g : Geometry) (a : AddrPhase) (o : Nat) (refused : Bool) : ReadKind :=
  if refused ∨ a.size ≠ 4 ∨ a.addr.toNat % 16 ≠ 0 then .refused
  else if g.windowBytes ≤ o + 16 * a.len - 1 then .refused
  else if x.state = .running ∧ x.shown.isSome = true then .forwarded
  else .pattern

/-- The read record of a view read at its acceptance (R56, R59 to R61). -/
def readRecord (v : Side) (x : View) (g : Geometry) (a : AddrPhase) (o : Nat) (refused : Bool) : ReadRecord :=
  let empty : ReadRecord :=
    { view := v, kind := readKind x g a o refused, charged := none, pieces := [], outstanding := 0, held := [],
      error := false, restarted := false }
  match readKind x g a o refused, x.shown.bind fun i => (x.slot? i).map fun sl => (i, sl) with
  | .forwarded, some (i, sl) =>
    let pieces := splitBurst g x.pan sl.base o a.len
    { empty with charged := some i, pieces := pieces, outstanding := pieces.length }
  | _, _ => empty

/-- The memory-port reads of a burst's pieces, in view order (R62). -/
def pieceReads (v : Side) (tag : Nat) (pieces : List Piece) : List DownRead :=
  pieces.map fun p =>
    { owner := .piece v, tag := tag, a := incrBurst (viewBusId v) p.addr p.len, unreturned := p.len }

/-- A read burst that reaches the view read unit is reported to the display latch of its side (R57, R103). -/
def State.reportRead (s : State) (v : Side) : State :=
  let l := (s.view v).displayLatch
  let s := s.setView v { s.view v with displayLatch := { l with awaiting := false } }
  if l.awaiting then s.passView .displayIdle v else s

/-! ## Dimming (R67, R68) -/

/-- A luma under a protect level and a gain (R67). -/
def dimLuma (protect gain y : Nat) : Nat :=
  if y ≤ protect then y else protect + ((y - protect) * gain + 128) / 256

/-- A chroma sample under a gain (R68; the floor rounds toward minus infinity). -/
def dimChroma (gain c : Nat) : Nat := (128 + (((c : Int) - 128) * gain + 128) / 256).toNat

/-- A developed word dimmed (R67, R68). -/
def dimWord (protect gain : Nat) (w : BitVec 32) : BitVec 32 :=
  let y0 := (byteOf w 0).toNat
  let y1 := (byteOf w 2).toNat
  let chroma := fun (b : Byte) =>
    if protect < y0 ∨ protect < y1 then BitVec.ofNat 8 (dimChroma gain b.toNat) else b
  pairWord (BitVec.ofNat 8 (dimLuma protect gain y0)) (chroma (byteOf w 1))
    (BitVec.ofNat 8 (dimLuma protect gain y1)) (chroma (byteOf w 3))

/-- The gain of the pair at a slot offset (R67). -/
def gainAt (g : Geometry) (l : List GlareEntry) (q : Nat) : Nat :=
  let p := pairPosition g (q / 4)
  tileGain l (tileIndex g p.1 p.2)

/-- A beat of slot data at slot offset `q` dimmed (R67, R68). -/
def dimBeat (g : Geometry) (f : FlipFields) (l : List GlareEntry) (q : Nat) (b : Beat) : Beat :=
  let d := fun i => dimWord f.protect (gainAt g l (q + 4 * i)) (wordOf b i)
  d 3 ++ d 2 ++ d 1 ++ d 0

/-- The slot offsets of a burst's beats, in view order. -/
def pieceOffsets (pieces : List Piece) : List Nat :=
  pieces.flatMap fun p => (List.range p.len).map fun i => p.slotOffset + 16 * i

/-- A view read burst is ready for release (R64, R65). -/
def ReadRecord.ready (r : ReadRecord) : Bool := r.outstanding == 0

/-- The data a burst of `len` beats carries at its release (R57, R59, R64, R65). -/
def State.releaseData (s : State) (r : ReadRecord) (len : Nat) : List RBeat :=
  let f := s.flipFields r.view
  let pattern := fun (resp : Resp) => List.replicate len { data := repeatWord f.pattern, resp := resp : RBeat }
  match r.kind with
  | .refused => pattern .slverr
  | .pattern => pattern .okay
  | .forwarded =>
    if (s.view r.view).state ≠ .running ∨ r.restarted = true ∨ r.error = true then pattern (upstreamResp r.error)
    else
      (List.zip (pieceOffsets r.pieces) r.held).map fun (q, b) =>
        { data := dimBeat (s.geometry r.view) f (s.view r.view).glare q b, resp := .okay }

end Sys2Proof.Machine
end

