-- ==== Sys2Proof/Machine/OwnTraffic.lean ====
section
/-! DEFINITION. The part's own traffic (R164, R175): requests entering the queue, the attachment and command unit's
results and fetches, and the report writer's record and status writes. -/

namespace Sys2Proof.Machine

/-- The own-traffic source of an item of the unit (R164). -/
def UnitItem.source : UnitItem → OwnSource
  | .fetch _ => .fetch
  | .anchorResult => .anchorResult
  | .immediate => .immediateResult
  | .completion => .completionResult

namespace State

/-- A request enters the own-traffic queue (R164). -/
def requestOwn (s : State) (r : OwnRequest) : State := s.setPath { s.path with own := s.path.own ++ [r] }

/-- A request of a source stands in the queue, not yet granted (R164). -/
def ownQueued (s : State) (src : OwnSource) : Bool := s.path.own.any fun r => r.src == src

/-- Base of the CONTROL entry, whose first 4 KiB are the control page (R155). -/
def controlBase (s : State) : Nat :=
  match findEntry (fun r => r.kind == .control) s.table with
  | some (_, r) => r.base.toNat
  | none => 0

/-- The request an item makes (R168, R169, R175). The content and address of a result record are taken at the grant
(R175, log entry 23). -/
def unitRequest (s : State) : UnitItem → OwnRequest
  | .fetch addr => { src := .fetch, addr := addr, len := 64, data := [] }
  | .anchorResult =>
    { src := .anchorResult, addr := s.attach.anchor, len := 1, data := [.resultWord s.attach.anchorWord] }
  | .immediate => { src := .immediateResult, addr := 0, len := 1, data := [] }
  | .completion => { src := .completionResult, addr := 0, len := 1, data := [] }

/-- When the unit is free it issues the item that became due first (R175). -/
def pumpUnit (s : State) : State :=
  match s.attach.request, s.attach.wanted with
  | none, item :: rest =>
    (s.setAttach { s.attach with wanted := rest, request := some { item := item, void := false } }).requestOwn
      (s.unitRequest item)
  | _, _ => s

/-- An item becomes due, unless it is due already and not yet issued (R175). -/
def want (s : State) (item : UnitItem) : State :=
  if s.attach.wanted.contains item || s.ownQueued item.source then s
  else (s.setAttach { s.attach with wanted := s.attach.wanted ++ [item] }).pumpUnit

/-- A new immediate result replaces the image and makes it due (R175). Its detail is 0, also for the BAD_ARGUMENT of an
APPLY_SETTINGS refused for its address, which no settings field has (R176, R181; DESIGN CHOICE, log entry 38). -/
def reply (s : State) (issue : BitVec 32) (code : ResultCode) : State :=
  (s.setAttach { s.attach with
    immediate := { issue := issue, code := code, detail := 0, due := true } }).want .immediate

/-- The final result of a long operation: the command in flight ends and the completion result becomes due (R175). -/
def endCommand (s : State) (issue : BitVec 32) (code : ResultCode) (detail : BitVec 64) : State :=
  (s.setAttach { s.attach with
    inFlight := none
    completion := { issue := issue, code := code, detail := detail, due := true } }).want .completion

/-- The final result of a long operation of one kind, if it is the command in flight (R151, R152, R177). -/
def endLong (s : State) (op : LongOperation) (code : ResultCode) : State :=
  match s.attach.inFlight with
  | some (k, n) => if k = op then s.endCommand n code 0 else s
  | none => s

/-- The unit's request has been answered; it is free for the next item (R175). -/
def endUnit (s : State) : State := (s.setAttach { s.attach with request := none }).pumpUnit

/-! ## The report writer -/

/-- The ring has room (R136). -/
def ringRoom (s : State) : Bool := decide ((s.report.produce - s.report.consume).toNat < Config.ringSize)

/-- A record write is issued with the content of the head entry (R137). -/
def issueRecord (s : State) (i : Nat) : State :=
  let r := s.report
  let n := r.produce.toNat
  (s.setReport { r with flight := some { entry := i, overtaken := false, void := false } }).requestOwn
    { src := .record
      addr := BitVec.ofNat 36 (s.reportArea.toNat + 256 + 32 * (n % Config.ringSize))
      len := 2
      data := (reportRecord r.produce s.attach.driveCycle i (s.fault i)).map .full }

/-- The status write is issued: its count is raised, its content taken, and the holdoff begins (R141, R142). -/
def issueStatus (s : State) : State :=
  let w := s.report.status
  let n := w.writeCount + 1
  (s.setReport { s.report with
    status :=
      { w with writeCount := n, flight := some { void := false }, changed := false, holdoff := Config.statusHoldoff } }
    ).requestOwn
    { src := .status, addr := s.reportArea, len := 16, data := (statusBlock n s.timebase s.status).map .full }

/-- The report area in force has changed, or an attach has been taken (R138, R140, R142): the indices are 0, the writer
is released, and a status write is due. -/
def newReportArea (s : State) : State :=
  let r := s.report
  s.setReport { r with
    produce := 0
    consume := 0
    held := false
    status := { r.status with due := true, changed := true, suspended := false } }

/-- The record and status writes in flight are void (R140). One that still waits in the own-traffic queue at an apply
that changes the report area is void too, stays queued and is written to the old area (DESIGN CHOICE, log entry 36). -/
def voidReports (s : State) : State :=
  let r := s.report
  s.setReport { r with
    flight := r.flight.map fun f => { f with void := true }
    status := { r.status with flight := r.status.flight.map fun f => { f with void := true } } }

/-- The first answered memory-port write under the own ID, if it is of this source (R162, R163). -/
def ownAnswered (s : State) (src : OwnSource) : Option DownWrite :=
  (s.path.answeredWrite Config.ownId).filter fun d => d.owner == .own src

end State

end Sys2Proof.Machine
end

