-- ==== Sys2Proof/Machine/Store.lean ====
section
/-! DEFINITION. The history store (R143 to R152): the requests that wait for the array, suspension and resumption, the
rotation of sectors, retirement and DISABLED, CLEAR_HISTORY, the scan, and what a reset leaves of it. -/

namespace Sys2Proof.Machine

namespace History

/-- What the store knows of a sector. -/
def state (h : History) (i : Nat) : SectorState := h.known.getD i .retired

def setState (h : History) (i : Nat) (x : SectorState) : History := { h with known := h.known.set i x }

/-- The active sector has a free position (R145). -/
def room (h : History) : Bool := h.activeOpen && decide (h.nextPosition ≤ 63)

/-- The sectors from the one after `i` on, in index order, wrapping, `i` last (R146). -/
def after (i : Nat) : List Nat := (List.range 8).map fun k => (i + 1 + k) % 8

/-- The sector is in the erase list or its erase is in progress. -/
def awaitsErase (h : History) (i : Nat) : Bool :=
  h.eraseList.contains i ||
    match h.erase with
    | some e => e.sector == i
    | none => false

/-- A sector is added to the tail of the erase list, where no sector stands twice (R144, R146). -/
def listErase (h : History) (i : Nat) : History :=
  if h.awaitsErase i then h else { h with eraseList := h.eraseList ++ [i] }

/-- The sector that is looked ahead to: the first after the active one that is not RETIRED (R146). -/
def aheadOf (h : History) : Option Nat :=
  (after h.active).find? fun i => i != h.active && h.state i != .retired

/-- The look-ahead of R146. -/
def lookAhead (h : History) : History :=
  match h.aheadOf with
  | some i => if h.state i = .erased then h else h.listErase i
  | none => h

/-- The FULL sector with the lowest serial (R146); among equals the lowest index (DESIGN CHOICE, log entry 27). -/
def oldestFull (h : History) : Option Nat :=
  ((List.range 8).foldl
    (fun (best : Option (Nat × Nat)) i =>
      if h.state i = .full then
        let n := (headerSerial (h.word i 0)).toNat
        match best with
        | some (m, j) => if n < m then some (n, i) else some (m, j)
        | none => some (n, i)
      else best)
    none).map Prod.snd

/-- An ACTIVE marker waits for the array or is being programmed. -/
def activating (h : History) : Bool :=
  (h.waiting.any fun r =>
    match r with
    | .header _ (.active _) => true
    | _ => false) ||
  match h.op with
  | some (.header _ (.active _) _) => true
  | _ => false

/-- A new active sector is looked for (R146): the next ERASED sector gets the ACTIVE marker; where there is none, the
first sector whose erase ends ERASED will. -/
def chooseActive (h : History) : History :=
  match h.needActive with
  | none => h
  | some (serial, i) =>
    if h.activating then h
    else
      match (after i).find? fun j => h.state j == .erased with
      | some j => { h with waiting := h.waiting ++ [.header j (.active serial)] }
      | none => h

/-- The moment at which a new active sector is needed, for the first time or again: where no sector is ERASED, the FULL
sector with the lowest serial is listed (R146, log entry 27). -/
def listOldest (h : History) : History :=
  if h.needActive = none ∨ ((List.range 8).any fun j => h.state j == .erased) = true then h
  else
    match h.oldestFull with
    | some j => h.listErase j
    | none => h

/-- A new active sector is needed (R146). -/
def requireActive (h : History) (serial : BitVec 32) (i : Nat) : History :=
  ({ h with needActive := some (serial, i) } : History).listOldest.chooseActive

/-- Position 63 has been committed or spoiled: the FULL marker is requested (R146). -/
def rotate (h : History) : History :=
  let r := ArrayRequest.header h.active .full
  if h.activeOpen = true ∧ 63 < h.nextPosition ∧ h.waiting.contains r = false then
    { h with waiting := h.waiting ++ [r] }
  else h

/-- The erase resumes with 500 µs added; a store request that is waiting then asks for its own suspension (R148). -/
def resume (h : History) : History :=
  match h.erase with
  | some e =>
    if e.phase = .frozen then
      let h := { h with erase := some { e with phase := .running, remaining := e.remaining + Config.resumeTime } }
      if h.queue ≠ [] ∧ h.room = true ∧ h.clearing = none ∧ h.waiting.contains .record = false then
        { h with waiting := h.waiting ++ [.record] }
      else h
    else h
  | none => h

/-- A sector that a CLEAR_HISTORY still has to erase: neither RETIRED nor ERASED, lowest index first (R152). -/
def clearNext (h : History) : Option Nat :=
  (List.range 8).find? fun i => h.state i != .retired && h.state i != .erased

/-- µs pass for a program in progress and for an erase that is not frozen (R144, R145, R147, R148). -/
def tick (h : History) : History :=
  { h with
    op := h.op.map fun o =>
      match o with
      | .record i c n => .record i c (n - 1)
      | .header i m n => .header i m (n - 1)
      | .copy i => .copy i
    erase := h.erase.map fun e => if e.phase = .frozen then e else { e with remaining := e.remaining - 1 } }

end History

/-- A number of the store raised by one; after 0xFFFF_FFFF the spec states none (log entry 29). -/
def nextNumber (n : BitVec 32) (free : BitVec 128) : BitVec 32 :=
  if n = BitVec.allOnes 32 then free.extractLsb' 0 32 else n + 1

namespace State

/-- The content of the head request's record, taken as programming starts (R145). -/
def recordContent (s : State) (i : Nat) : Beat :=
  historyContent s.history.nextRecord s.attach.driveCycle i (s.fault i)

/-- A request that waited for the array is served (R145, R146, R151). -/
def startRequest (s : State) (r : ArrayRequest) : State :=
  match r with
  | .record =>
    match s.history.queue with
    | i :: _ => s.setHistory { s.history with op := some (.record i (s.recordContent i) Config.programTime) }
    | [] => s
  | .header i m => s.setHistory { s.history with op := some (.header i m Config.programTime) }
  | .copy i => s.setHistory { s.history with op := some (.copy i) }

/-- The request that became servable first is served when the array is free; a running erase is asked to suspend, up to
16 times and never during a CLEAR_HISTORY (R148, R152). -/
def serveArray (s : State) : State :=
  let h := s.history
  if h.scanning = true ∨ h.op.isSome = true then s
  else
    match h.waiting, h.erase with
    | [], _ => s
    | r :: rest, none => (s.setHistory { h with waiting := rest }).startRequest r
    | _ :: _, some e =>
      if e.phase = .running ∧ e.suspensions < Config.maxSuspensions ∧ h.clearing = none then
        s.setHistory { h with erase := some { e with phase := .requested, late := decide (e.remaining = 0) } }
      else s

/-- A CLEAR_HISTORY with nothing left to erase: the lowest-indexed ERASED sector gets the ACTIVE marker with serial 1
(R152). -/
def clearStep (s : State) : State :=
  let h := s.history
  if h.clearing = some .erasing ∧ h.erase = none ∧ h.clearNext = none then
    s.setHistory ({ h with clearing := some .marking, activeOpen := false }.requireActive 1 7)
  else s

/-- An ACTIVE marker has been programmed. That of a CLEAR_HISTORY ends it: the next record number becomes 1, and DONE is
posted (R152). -/
def clearDone (s : State) : State :=
  if s.history.clearing = some .marking then
    (s.setHistory { s.history with clearing := none, nextRecord := 1 }).endLong .clearHistory .done
  else s

/-- A CLEAR_HISTORY begins once no program is in progress: the erase list is emptied (R152); header programs that wait are
overtaken by the erases, and a requested suspension is dropped (DESIGN CHOICE, log entry 21). -/
def beginClear (s : State) : State :=
  let h := s.history
  (s.setHistory
    { h with
      clearing := some .erasing
      eraseList := []
      waiting := []
      needActive := none
      activeOpen := false
      erase := h.erase.map fun e => if e.phase = .requested then { e with phase := .running } else e }).clearStep

/-- What the array goes on to when a program or a reading has ended (R146, R148, R152). -/
def afterOp (s : State) : State :=
  let s := s.setHistory { s.history with op := none }.resume
  let s := if s.history.clearing = some .waiting then s.beginClear else s.clearStep
  (s.setHistory s.history.chooseActive).serveArray

/-- The store becomes DISABLED when fewer than 3 sectors are usable, and the requests in its queue are discarded (R147,
R152, log entry 44). Record requests and marker programs that wait for the array, and the need of a new active sector,
are dropped with them, and copies go on waiting (DESIGN CHOICE, log entry 46). An erase frozen under the program that
failed is left in progress: it resumes and ends (DESIGN CHOICE, log entry 39). -/
def checkUsable (s : State) : State :=
  let h := s.history
  if h.usable < Config.minUsable ∧ h.disabled = false then
    let clearing := h.clearing.isSome
    let s := ((s.setHistory
      { h with
        disabled := true
        queue := []
        retried := false
        eraseList := []
        needActive := none
        clearing := none
        waiting := h.waiting.filter fun r =>
          match r with
          | .copy _ => true
          | _ => false }).clearStored h.queue).storeFail 3 0xFF 0
    if clearing then s.endLong .clearHistory .failed else s
  else s

/-- A sector is retired: it is counted RETIRED, and the RETIRED marker is programmed over it at once (R146, R147, log
entry 20). -/
def retire (s : State) (i : Nat) : State :=
  let h := s.history
  (s.setHistory
    { h.setState i .retired with
      usable := h.usable - 1
      op := some (.header i .retired Config.programTime) }).checkUsable

/-- A new active sector is needed again: the one that was to become it has failed (R146). -/
def needAgain (s : State) : State := s.setHistory s.history.listOldest

/-- A word of a sector is what a failed program leaves of it, computed from a free value (log entry 7). -/
def spoil (s : State) (sector position : Nat) (f : BitVec 128 → Beat) : State :=
  (s.setHistory (s.history.setWord sector position (f s.freeValue))).useFree 1

/-- The sector of an erase that has begun holds free contents under an INVALID header until the erase has ended (R143,
R150, log entry 7). -/
def tornSector (n : Nat) : List Beat :=
  (List.range 64).map fun i => if i = 0 then tornErase (Config.freeWord n) else Config.freeWord (n + i)

end State

/-! ## The scan (R149) -/

/-- The sector a scan finds active: the ACTIVE or FULL one with the highest serial, the lowest index among equals. -/
def scanActive (sectors : List (List Beat)) : Option Nat :=
  (sectors.zipIdx.foldl
    (fun (best : Option (Nat × Nat)) (l, i) =>
      let w := l.getD 0 erasedWord
      if headerState w = .active ∨ headerState w = .full then
        let n := (headerSerial w).toNat
        match best with
        | some (m, j) => if m < n then some (n, i) else some (m, j)
        | none => some (n, i)
      else best)
    none).map Prod.snd

/-- The position after the last non-empty one of a sector (R149). -/
def scanPosition (l : List Beat) : Nat :=
  l.zipIdx.foldl (fun m (w, p) => if p ≠ 0 ∧ isEmptyPosition w = false then p + 1 else m) 1

/-- The highest committed record number in the ACTIVE and FULL sectors (R149). -/
def scanRecord (sectors : List (List Beat)) : Nat :=
  sectors.foldl
    (fun m l =>
      let st := headerState (l.getD 0 erasedWord)
      if st = .active ∨ st = .full then
        (l.drop 1).foldl (fun m w => if isCommitted w then max m (w.extractLsb' 0 32).toNat else m) m
      else m)
    0

/-- What the scan finds (R149). Where no sector is ACTIVE or FULL the active index, which the status block shows, stays as
it was before the scan until the ACTIVE marker has been programmed (DESIGN CHOICE, log entry 42). -/
def History.scanned (h : History) (free : BitVec 128) : History :=
  let states : List SectorState := h.sectors.map fun l => headerState (l.getD 0 erasedWord)
  let found := scanActive h.sectors
  let known : List SectorState :=
    states.zipIdx.map fun (st, i) => if st = SectorState.active ∧ found ≠ some i then SectorState.full else st
  let top := scanRecord h.sectors
  let h :=
    { h with
      scanning := false
      known := known
      usable := (states.filter fun st => st != SectorState.retired).length
      nextRecord := nextNumber (BitVec.ofNat 32 top) free
      eraseList := (states.zipIdx.filter fun (p : SectorState × Nat) => p.1 == SectorState.invalid).map Prod.snd }
  match found with
  | some i =>
    { h with
      active := i
      activeOpen := true
      serial := headerSerial (h.word i 0)
      nextPosition := scanPosition (h.sectors.getD i []) }
  | none => { h with activeOpen := false, nextPosition := 1 }

namespace State

/-- The end of the scan (R149): DISABLED below 3 usable sectors, otherwise the look-ahead, the rotation if the active
sector is full, and a new active sector if there is none. -/
def endScan (s : State) : State :=
  let s := (s.setHistory (s.history.scanned s.freeValue)).useFree 1
  let s := s.checkUsable
  if s.history.disabled then s.serveArray
  else
    let h := s.history
    let h := if h.activeOpen then h.lookAhead.rotate else h.requireActive 1 7
    (s.setHistory h).serveArray

end State

/-! ## Resets (R149, R150) -/

/-- What a power loss leaves in the sectors: an interrupted record program a partial record, an interrupted header
program an INVALID header, and an interrupted erase what `State.tornSector` says (log entry 30). -/
def History.atPowerLoss (h : History) (free : BitVec 128) : List (List Beat) :=
  match h.op with
  | some (.record _ content _) => (h.setWord h.active h.nextPosition (partialRecord content free)).sectors
  | some (.header i m _) => (h.setWord i 0 (tornHeader (h.word i 0) m free)).sectors
  | _ => h.sectors

/-- The working state after a link reset (R150). The partial value of a FULL or RETIRED marker that is made again is the
same INVALID value that a power loss leaves, and a power-on reset taken before the new program ends finds it so (log
entry 34). The sector of an ACTIVE marker that is cut goes to the tail of the erase list (DESIGN CHOICE, log entry 40), the
sector of an erase that is cut to its head (R150). -/
def History.linkReset (h : History) (free : BitVec 128) : History :=
  let headers := h.waiting.filter fun r =>
    match r with
    | .header _ _ => h.clearing.isNone
    | _ => false
  let h := { h with queue := [], retried := false, waiting := headers, copyData := none, copyFlight := none }
  let h :=
    match h.op with
    | some (.record _ content _) =>
      { h.setWord h.active h.nextPosition (spoiledRecord content free) with nextPosition := h.nextPosition + 1 }
    | some (.header i (.active n) _) =>
      (((h.setWord i 0 (tornHeader (h.word i 0) (.active n) free)).setState i .invalid).listErase i).listOldest
    | some (.header i m _) =>
      { h.setWord i 0 (tornHeader (h.word i 0) m free) with waiting := .header i m :: h.waiting }
    | some (.copy _) => h
    | none => h
  let h := { h with op := none }
  let h :=
    match h.erase with
    | some e =>
      { h with erase := none, eraseList := if h.clearing.isSome then h.eraseList else e.sector :: h.eraseList }
    | none => h
  if h.scanning || h.disabled then h
  else if h.clearing.isSome then { h with clearing := some .erasing, eraseList := [], needActive := none, activeOpen := false }
  else h.rotate.chooseActive

end Sys2Proof.Machine
end

