-- ==== Sys2Proof/Machine/Settings.lean ====
section
/-! DEFINITION. The settings block: its fields (R180), the structural conditions (R171), the tuning fields brought into
range (R172), and what an attach and a taken apply do with it (R170, R173, R176). -/

namespace Sys2Proof.Machine

/-- A value brought into a range. -/
def clampTo (lo hi x : Nat) : Nat := max lo (min hi x)

/-! ## The structural fields -/

/-- Offset of a view block (R180). -/
def viewBlock : Side → Nat
  | .left => 256
  | .right => 640

/-- Index of a view block's first field (R180). -/
def viewIndex : Side → Nat
  | .left => 32
  | .right => 80

/-- A 36-bit address field of a block: the low 36 bits of its 8 bytes (R179, log entry 14). -/
def addressAt (b : List Beat) (off : Nat) : Addr := BitVec.ofNat 36 (field b off 8)

/-- Offset of region entry `e` (R180). -/
def entryOffset (e : Nat) : Nat := 8 + 16 * e

/-- Region entry `e`; absent while unused (R155, R180). A CAPTURE or VIEW entry whose view byte names no view is
rejected by its own index (`entryBroken`) and is an entry of neither view (R171). -/
def blockRegion (b : List Beat) (e : Nat) : Option Region :=
  let o := entryOffset e
  let region := fun (k : RegionKind) => some { kind := k, base := addressAt b (o + 8), exponent := field b (o + 4) 1 : Region }
  let side := sideOf (blockByte b (o + 1))
  match field b o 1 with
  | 1 => side.bind fun v => region (.capture v ((blockByte b (o + 2)).setWidth 6) ((blockByte b (o + 3)).setWidth 6))
  | 2 => side.bind fun v => region (.view v)
  | 3 => region .control
  | 4 => region .guard
  | _ => none

/-- The region table of a block. -/
def blockTable (b : List Beat) : List (Option Region) := (List.range 8).map (blockRegion b)

/-- Slots a view block gives: its slot count, at most 4 (R180, log entry 18). -/
def blockSlots (b : List Beat) (v : Side) : Nat := min 4 (field b (viewBlock v + 8) 1)

/-- The geometry of a view block. -/
def blockGeometry (b : List Beat) (v : Side) : Geometry :=
  let o := viewBlock v
  { w := field b o 2
    h := field b (o + 2) 2
    vw := field b (o + 4) 2
    vh := field b (o + 6) 2
    bases := (List.range (blockSlots b v)).map fun i => addressAt b (o + 16 + 8 * i) }

/-- The report area of a block. -/
def blockReportArea (b : List Beat) : Addr := addressAt b 136

/-! ## Rejection (R171) -/

/-- The view a region belongs to and the bytes its settings need of it: W·H·4 of a CAPTURE entry, VW·VH·2 of a VIEW
entry (R171). -/
def neededBytes (b : List Beat) (r : Region) : Nat :=
  match r.kind with
  | .capture v _ _ => (blockGeometry b v).rawBytes
  | .view v => (blockGeometry b v).windowBytes
  | .control => 0
  | .guard => 0

/-- Region entry `e` breaks the condition on the entries (R171). -/
def entryBroken (b : List Beat) (e : Nat) : Bool :=
  let o := entryOffset e
  let kind := field b o 1
  if kind = 0 then false
  else
    decide (4 < kind) ||
      ((kind == 1 || kind == 2) && decide (1 < field b (o + 1) 1)) ||
      decide (field b (o + 4) 1 < 12) || decide (34 < field b (o + 4) 1) ||
      (addressAt b (o + 8)).toNat % 2 ^ (field b (o + 4) 1) != 0 ||
      (kind == 1 && (decide (63 < field b (o + 2) 1) || decide (63 < field b (o + 3) 1)))

/-- A used entry is smaller than its view needs (R171). -/
def entryTooSmall (b : List Beat) (e : Nat) : Bool :=
  match blockRegion b e with
  | some r => decide (r.size < neededBytes b r)
  | none => false

/-- Used entries of the table that meet a test. -/
def countEntries (t : List (Option Region)) (p : RegionKind → Bool) : Nat :=
  (t.filter fun e =>
    match e with
    | some r => p r.kind
    | none => false).length

/-- A CAPTURE entry of a view. -/
def RegionKind.captureOf (v : Side) : RegionKind → Bool
  | .capture u _ _ => u == v
  | _ => false

/-- A VIEW entry of a view. -/
def RegionKind.viewOf (v : Side) : RegionKind → Bool
  | .view u => u == v
  | _ => false

/-- The table as a whole breaks its condition (R171): not exactly one CONTROL entry, or two CAPTURE or VIEW entries of
one view. -/
def tableBroken (t : List (Option Region)) : Bool :=
  countEntries t (fun k => k == .control) != 1 ||
    decide (1 < countEntries t (RegionKind.captureOf .left)) || decide (1 < countEntries t (RegionKind.captureOf .right)) ||
    decide (1 < countEntries t (RegionKind.viewOf .left)) || decide (1 < countEntries t (RegionKind.viewOf .right))

/-- Bytes `first .. last - 1` share one with a CAPTURE, VIEW or CONTROL entry (R171). -/
def meetsAperture (t : List (Option Region)) (first last : Nat) : Bool :=
  t.any fun e =>
    match e with
    | some r => r.kind != .guard && rangesMeet first last r.base.toNat r.last
    | none => false

/-- The report area breaks its condition (R171). -/
def reportAreaBroken (b : List Beat) : Bool :=
  let a := (blockReportArea b).toNat
  a % 4096 != 0 || meetsAperture (blockTable b) a (a + 4096)

/-- Ladder level `i`, 0..4: night_enter, night_exit, dusk_enter, dusk_exit, day_force (R180). -/
def blockLevel (b : List Beat) (i : Nat) : Nat := field b (144 + i) 1

/-- Ladder level `i` and the one after it break the order (R75, R171); the lower of the two indices is reported. -/
def levelBroken (b : List Beat) (i : Nat) : Bool :=
  match i with
  | 0 => decide (blockLevel b 1 ≤ blockLevel b 0)
  | 1 => decide (blockLevel b 2 < blockLevel b 1)
  | 2 => decide (blockLevel b 3 ≤ blockLevel b 2)
  | 3 => decide (blockLevel b 4 < blockLevel b 3)
  | _ => false

/-- Every slot a block gives: its view, its index, its first byte and the byte after its last. -/
def blockSlotRanges (b : List Beat) : List (Side × Nat × Nat × Nat) :=
  [Side.left, Side.right].flatMap fun v =>
    (blockGeometry b v).bases.zipIdx.map fun (a, i) =>
      (v, i, a.toNat, a.toNat + (blockGeometry b v).slotBytes)

/-- The base of slot `i` of a view breaks its condition (R171). -/
def slotBroken (b : List Beat) (v : Side) (i : Nat) : Bool :=
  match (blockGeometry b v).bases[i]? with
  | none => false
  | some a =>
    let first := a.toNat
    let last := first + (blockGeometry b v).slotBytes
    first % 4096 != 0 || decide (2 ^ 36 < last) ||
      ((blockSlotRanges b).any fun (u, j, f, l) => (u != v || j != i) && rangesMeet first last f l) ||
      meetsAperture (blockTable b) first last ||
      rangesMeet first last (blockReportArea b).toNat ((blockReportArea b).toNat + 4096)

/-- A view structural field, by its local index, breaks its condition (R171). -/
def viewFieldBroken (b : List Beat) (v : Side) (i : Nat) : Bool :=
  let g := blockGeometry b v
  match i with
  | 0 => decide (g.w < 256) || decide (2048 < g.w) || g.w % 32 != 0
  | 1 => decide (g.h < 128) || decide (1280 < g.h) || g.h % 8 != 0
  | 2 => decide (g.vw < 256) || decide (g.w < g.vw) || g.vw % 32 != 0
  | 3 => decide (g.vh < 128) || decide (g.h < g.vh) || g.vh % 8 != 0
  | 4 => field b (viewBlock v + 8) 1 != 3 && field b (viewBlock v + 8) 1 != 4
  | 5 => slotBroken b v 0
  | 6 => slotBroken b v 1
  | 7 => slotBroken b v 2
  | 8 => slotBroken b v 3
  | _ => false

/-- The field with an index breaks a condition (R171; log entry 18 says which field a condition over several names). -/
def fieldBroken (b : List Beat) (i : Nat) : Bool :=
  if i = 0 then field b 0 1 != 3
  else if i ≤ 8 then entryBroken b (i - 1) || entryTooSmall b (i - 1) || (i == 1 && tableBroken (blockTable b))
  else if i = 9 then reportAreaBroken b
  else if i ≤ 13 then levelBroken b (i - 10)
  else if 32 ≤ i ∧ i ≤ 40 then viewFieldBroken b .left (i - 32)
  else if 80 ≤ i ∧ i ≤ 88 then viewFieldBroken b .right (i - 80)
  else false

/-- The index of a rejected block's first field; `none` for a valid block (R171). -/
def rejected (b : List Beat) : Option Nat := (List.range 89).find? (fieldBroken b)

/-! ## The tuning fields (R172) -/

/-- The exposure ratio K: the largest listed value not above the field, 4 below 4 (R36). -/
def ratioOf (k : Nat) : Nat := if 32 ≤ k then 32 else if 16 ≤ k then 16 else if 8 ≤ k then 8 else 4

/-- The x pan step (R70). -/
def panStepOf (x : Nat) : Nat := clampTo 8 256 x / 8 * 8

/-- The 65 entries of a tone curve. -/
def curveAt (b : List Beat) (off : Nat) : List Nat := (List.range 65).map fun i => field b (off + i) 1

/-- The development fields of a view block (R36). -/
def blockDev (b : List Beat) (v : Side) : DevFields :=
  let o := viewBlock v
  { black := field b (o + 48) 1
    ratio := ratioOf (field b (o + 49) 1)
    knee := clampTo 1024 3839 (field b (o + 50) 2)
    shift := clampTo 0 5 (field b (o + 52) 1)
    curveA := curveAt b (o + 64)
    curveB := curveAt b (o + 129)
    glareThreshold := clampTo 4096 131040 (field b (o + 56) 4) }

/-- The flip fields of a view block (R66, R67, R70, R85, R111). -/
def blockFlip (b : List Beat) (v : Side) : FlipFields :=
  let o := viewBlock v
  { pattern := BitVec.ofNat 32 (field b (o + 60) 4)
    protect := clampTo 128 254 (field b (o + 194) 1)
    panStepX := panStepOf (field b (o + 196) 2)
    panStepY := clampTo 1 256 (field b (o + 198) 2)
    glareMin := clampTo 1 4095 (field b (o + 200) 2)
    slope := clampTo 0 1024 (field b (o + 202) 2)
    gainFloor := clampTo 64 256 (field b (o + 204) 2)
    stepDown := clampTo 1 64 (field b (o + 206) 1)
    stepUp := clampTo 1 64 (field b (o + 207) 1)
    dayDuty := field b (o + 208) 2
    duskDuty := field b (o + 210) 2
    nightDuty := field b (o + 212) 2
    blankDuty := field b (o + 214) 2
    glareTrim := field b (o + 216) 2
    dutyMin := field b (o + 218) 2
    dutyMax := max (field b (o + 218) 2) (field b (o + 220) 2)
    blStep := clampTo 1 4096 (field b (o + 222) 2)
    inversion := flag b (o + 224) }

/-- The fault fields of a view block (R51, R108). -/
def blockLimits (b : List Beat) (v : Side) : ViewLimits :=
  let o := viewBlock v
  { darkLevel := field b (o + 225) 1
    blockedTiles := clampTo 1 128 (field b (o + 226) 1)
    staleLimit := clampTo 10000 1000000 (field b (o + 228) 4)
    startLimit := clampTo 100000 10000000 (field b (o + 232) 4)
    latencyLimit := clampTo 1000 1000000 (field b (o + 236) 4) }

/-- The settings of a view block. -/
def blockView (b : List Beat) (v : Side) : ViewSettings :=
  { geometry := blockGeometry b v, dev := blockDev b v, flip := blockFlip b v, limits := blockLimits b v }

/-- The settings a valid block gives, its tuning fields clamped (R170, R172, R180). -/
def blockSettings (b : List Beat) : Settings where
  table := blockTable b
  reportArea := blockReportArea b
  ladder :=
    { nightEnter := blockLevel b 0
      nightExit := blockLevel b 1
      duskEnter := blockLevel b 2
      duskExit := blockLevel b 3
      dayForce := blockLevel b 4
      dwellDown := clampTo 0 60000 (field b 152 4)
      dwellUp := clampTo 0 60000 (field b 156 4) }
  counts :=
    { safety := clampTo 1 15 (field b 160 1)
      warning := clampTo 1 15 (field b 161 1)
      freeze := clampTo 2 15 (field b 162 1)
      safetyHeal := clampTo 1 255 (field b 164 1)
      warningHeal := clampTo 1 255 (field b 165 1) }
  attention := flag b 166
  lock := flag b 167
  pwmDivider := clampTo 0 7 (field b 168 1)
  pwmPeriod := clampTo 62 65533 (field b 170 2)
  views := { left := blockView b .left, right := blockView b .right }

/-- The clamped tuning fields of a view block: index, field, value taken (R36, R51, R67, R70, R85, R108, R111). -/
def viewTuning (b : List Beat) (v : Side) : List (Nat × Nat × Nat) :=
  let o := viewBlock v
  let i := viewIndex v
  let d := blockDev b v
  let f := blockFlip b v
  let l := blockLimits b v
  [(i + 10, field b (o + 49) 1, d.ratio), (i + 11, field b (o + 50) 2, d.knee), (i + 12, field b (o + 52) 1, d.shift),
    (i + 13, field b (o + 56) 4, d.glareThreshold), (i + 17, field b (o + 194) 1, f.protect),
    (i + 18, field b (o + 196) 2, f.panStepX), (i + 19, field b (o + 198) 2, f.panStepY),
    (i + 20, field b (o + 200) 2, f.glareMin), (i + 21, field b (o + 202) 2, f.slope),
    (i + 22, field b (o + 204) 2, f.gainFloor), (i + 23, field b (o + 206) 1, f.stepDown),
    (i + 24, field b (o + 207) 1, f.stepUp), (i + 31, field b (o + 220) 2, f.dutyMax),
    (i + 32, field b (o + 222) 2, f.blStep), (i + 35, field b (o + 226) 1, l.blockedTiles),
    (i + 36, field b (o + 228) 4, l.staleLimit), (i + 37, field b (o + 232) 4, l.startLimit),
    (i + 38, field b (o + 236) 4, l.latencyLimit)]

/-- The clamped tuning fields of a block: index, field, value taken (R75, R109, R111, R123, R172). -/
def blockTuning (b : List Beat) : List (Nat × Nat × Nat) :=
  let c := blockSettings b
  [(15, field b 152 4, c.ladder.dwellDown), (16, field b 156 4, c.ladder.dwellUp), (17, field b 160 1, c.counts.safety),
    (18, field b 161 1, c.counts.warning), (19, field b 162 1, c.counts.freeze),
    (20, field b 164 1, c.counts.safetyHeal), (21, field b 165 1, c.counts.warningHeal),
    (24, field b 168 1, c.pwmDivider), (25, field b 170 2, c.pwmPeriod)] ++
    viewTuning b .left ++ viewTuning b .right

/-- The indices of the clamped fields, lowest first (R172). -/
def clampedFields (b : List Beat) : List Nat :=
  (blockTuning b).filterMap fun (i, raw, taken) => if raw = taken then none else some i

/-! ## Changes of structural fields (R176) -/

/-- The lowest index of a changed device structural field. -/
def deviceChange (old new : Settings) : Option Nat :=
  match (List.range 8).find? fun e => old.table.getD e none != new.table.getD e none with
  | some e => some (1 + e)
  | none => if old.reportArea = new.reportArea then none else some 9

/-- The lowest index of a changed structural field of a view. -/
def viewChange (v : Side) (old new : Geometry) : Option Nat :=
  let i := viewIndex v
  if old.w ≠ new.w then some i
  else if old.h ≠ new.h then some (i + 1)
  else if old.vw ≠ new.vw then some (i + 2)
  else if old.vh ≠ new.vh then some (i + 3)
  else if old.bases.length ≠ new.bases.length then some (i + 4)
  else ((List.range 4).find? fun k => old.bases[k]? != new.bases[k]?).map fun k => i + 5 + k

/-- A view is not STOPPED. -/
def View.live (x : View) : Bool := x.state != .stopped

/-- The change that an apply may not make in this state (R176): the lowest index of a device field while a view is not
STOPPED, and of a field of a view that is not STOPPED. -/
def forbiddenChange (s : State) (old new : Settings) : Option Nat :=
  let ofView := fun (v : Side) =>
    if (s.view v).live then viewChange v (old.views.get v).geometry (new.views.get v).geometry else none
  ((if (s.view .left).live || (s.view .right).live then deviceChange old new else none).or (ofView .left)).or
    (ofView .right)

/-! ## Taking a block -/

/-- A pan position clamped to a geometry (R69). -/
def clampPan (g : Geometry) (p : Nat × Nat) : Nat × Nat := (min (g.w - g.vw) (p.1 / 8 * 8), min (g.h - g.vh) p.2)

/-- A view with its slot table rebuilt and its pan re-clamped (R24, R71). -/
def View.rebuild (x : View) (g : Geometry) : View :=
  { x with slots := g.bases.map Slot.built, pan := clampPan g x.pan, panTarget := clampPan g x.panTarget }

namespace State

/-- The slot table of a view is rebuilt; reads in flight are charged to no record of it from now on (R24). -/
def rebuildSlots (s : State) (v : Side) (g : Geometry) : State :=
  let s := s.setView v ((s.view v).rebuild g)
  s.setPath
    { s.path with
      reads := s.path.reads.map fun u =>
        match u.cls with
        | .view r => if r.view = v then { u with cls := .view { r with charged := none } } else u
        | .plain => u
        | .answered => u }

/-- The history lock is set by settings that carry its flag (R152). -/
def takeLock (s : State) (c : Settings) : State :=
  s.setHistory { s.history with lock := s.history.lock || c.lock }

/-- A view at an attach: slots and pan, nothing pending, both duties at 0 and the inversion flag, so that its backlight
output sits inactive from that moment (R24, R71, R110, R170). -/
def attachView (s : State) (v : Side) (c : ViewSettings) : State :=
  let s := s.rebuildSlots v c.geometry
  s.setView v
    { s.view v with pendingDev := none, pendingFlip := none, staged := 0, working := 0, inverted := c.flip.inversion }

/-- The attach with a valid block (R170). -/
def takeAttach (s : State) (c : Settings) : State :=
  let s := s.setAttach
    { s.attach with
      state := .attached
      current := some c
      driveCycle := s.attach.heldCycle
      lastIssue := 0 }
  let s := (s.attachView .left c.views.left).attachView .right c.views.right
  let s := s.setPwm
    { counting := true
      counter := 0
      workingD := c.pwmDivider
      workingP := c.pwmPeriod
      stagedD := c.pwmDivider
      stagedP := c.pwmPeriod }
  let s := s.setFaults (s.faults.map fun e => { e with confirmed := false, stored := false })
  (s.newReportArea).takeLock c

/-- The settings of a view after a taken apply (R173): those of the block, but for the development and flip fields of a
view that is not STOPPED. -/
def appliedView (live : Bool) (old new : ViewSettings) : ViewSettings :=
  if live then { new with dev := old.dev, flip := old.flip } else new

/-- A view at a taken apply (R24, R71, R111, R173). -/
def applyView (s : State) (v : Side) (old new : ViewSettings) : State :=
  let s := if old.geometry = new.geometry then s else s.rebuildSlots v new.geometry
  let x := s.view v
  if x.live then s.setView v { x with pendingDev := some new.dev, pendingFlip := some new.flip }
  else s.setView v { x with inverted := new.flip.inversion }

/-- The apply with a valid block, once nothing forbids it (R176). -/
def takeApply (s : State) (old new : Settings) : State :=
  let settings :=
    { new with
      views :=
        { left := appliedView (s.view .left).live old.views.left new.views.left
          right := appliedView (s.view .right).live old.views.right new.views.right } }
  let s := s.setAttach { s.attach with current := some settings }
  let s := (s.applyView .left old.views.left new.views.left).applyView .right old.views.right new.views.right
  let s := s.setPwm { s.pwm with stagedD := new.pwmDivider, stagedP := new.pwmPeriod }
  let s := if old.reportArea = new.reportArea then s else s.voidReports.newReportArea
  s.takeLock new

end State

end Sys2Proof.Machine
end

