-- ==== Sys2Proof/Machine/Attaching.lean ====
section
/-! DEFINITION. The anchor record, the settings fetch and the answers to the unit's writes (R168 to R170, R175, R176). -/

namespace Sys2Proof.Machine

/-! ## The anchor record (R168, R180) -/

/-- The settings address of an anchor record. -/
def anchorSettings (w : Beat) : Addr := w.extractLsb' 8 24 ++ (0 : BitVec 12)

/-- The drive cycle number of an anchor record. -/
def anchorCycle (w : Beat) : BitVec 32 := w.extractLsb' 32 32

/-- The copy of an anchor record is taken: format, settings address and check field (R168). -/
def anchorTaken (w : Beat) : Bool :=
  w.extractLsb' 0 8 == 3 && anchorSettings w != 0 &&
    w.extractLsb' 64 32 == ~~~((anchorSettings w).extractLsb' 0 32)

namespace State

/-- A copy that passes puts the part in ATTACHING and requests the fetch (R168, R169). -/
def takeAnchor (s : State) (w : Beat) : State :=
  (s.setAttach { s.attach with state := .attaching, heldCycle := anchorCycle w, anchorCopies := [] }).want
    (.fetch (anchorSettings w))

end State

/-- ANCHOR_RECORD_WRITE: the oldest copy is examined in TRANSPARENT and dropped otherwise (R168, log entry 5). -/
def execAnchorRecordWrite (s : State) : Result :=
  match s.attach.anchorCopies with
  | [] => stays s
  | w :: rest =>
    let s' := (s.quiet).setAttach { s.attach with anchorCopies := rest }
    finish s (if s.attach.state = .transparent ∧ anchorTaken w = true then s'.takeAnchor w else s')

/-! ## The settings fetch (R169, R170, R176) -/

namespace State

/-- The anchor result word becomes due (R169). -/
def postAnchor (s : State) (w : BitVec 32) : State :=
  (s.setAttach { s.attach with anchorWord := w }).want .anchorResult

/-- The fetched block is judged at an attach (R169, R170). -/
def judgeAttach (s : State) (error : Bool) (b : List Beat) : State :=
  if error then s.postAnchor (anchorResult .failed 0 0)
  else
    match rejected b with
    | some i => s.postAnchor (anchorResult .notAttached 0 i)
    | none =>
      let clamped := clampedFields b
      (s.takeAttach (blockSettings b)).postAnchor (anchorResult .done clamped.length (clamped.headD 0xFF))

/-- SETTINGS_REJECT occurs (R176, R181). -/
def settingsReject (s : State) (i : Nat) : State :=
  s.evidence settingsRejectEntry (.fail (detailBytes i 0 0) none s.timebase)

/-- The apply in flight is decided (R176). -/
def judgeApply (s : State) (issue : BitVec 32) (error : Bool) (b : List Beat) : State :=
  if error then s.endCommand issue .failed 0
  else
    match rejected b, s.attach.current with
    | some i, _ => (s.settingsReject i).endCommand issue .badArgument (indexDetail i)
    | none, none => s
    | none, some old =>
      let new := blockSettings b
      match forbiddenChange s old new with
      | some i => s.endCommand issue .notStopped (indexDetail i)
      | none => (s.takeApply old new).endCommand issue .done (clampDetail (clampedFields b))

/-- The data of the settings fetch has returned (R163, R169, R176, R177). -/
def takeFetch (s : State) (d : DownRead) (beats : List RBeat) : State :=
  let error := beats.any fun b => isError b.resp
  let b := beats.map RBeat.data
  let s := s.endRead Config.ownId
  let s := if error then s.ownError .fetch d.a.addr else s
  let void : Bool :=
    match s.attach.request with
    | some r => r.void
    | none => true
  let s :=
    if void then s
    else
      match s.attach.state, s.attach.inFlight with
      | .attaching, _ => s.judgeAttach error b
      | .attached, some (.applySettings, n) => s.judgeApply n error b
      | .attached, _ => s
      | .transparent, _ => s
  s.endUnit

end State

/-- SETTINGS_FETCH_RETURN (R169, R176). -/
def execSettingsFetchReturn (beats : List RBeat) (s : State) : Result :=
  guarded (.settingsFetchReturn beats)
    (match s.path.answeredRead Config.ownId with
      | none => .fault .noTransaction
      | some d =>
        if d.owner = .own ∧ d.unreturned = beats.length then finish s ((s.quiet).takeFetch d beats)
        else .fault .noTransaction)

/-! ## Answers to the unit's writes (R169, R175) -/

namespace State

/-- An own write has been answered; an error makes MEMORY_ERROR occur (R163). -/
def endOwnWrite (s : State) (src : OwnSource) (d : DownWrite) (r : Resp) : State :=
  let s := s.endWrite Config.ownId
  if isError r then s.ownError src d.a.addr else s

/-- The unit's request is one that a DETACH has not voided (R177). -/
def requestLive (s : State) : Bool :=
  match s.attach.request with
  | some r => !r.void
  | none => false

/-- The anchor result write has been answered: a part still ATTACHING goes TRANSPARENT (R169). -/
def endAnchorWrite (s : State) : State :=
  let s :=
    if s.requestLive = true ∧ s.attach.state = .attaching then s.setAttach { s.attach with state := .transparent }
    else s
  s.endUnit

/-- A result write has been answered: its image is due only if it was replaced meanwhile (R175). -/
def endResultWrite (s : State) (item : UnitItem) : State :=
  let a := s.attach
  let due := a.wanted.contains item
  let s :=
    if s.requestLive then
      match item with
      | .immediate => s.setAttach { a with immediate := { a.immediate with due := due } }
      | .completion => s.setAttach { a with completion := { a.completion with due := due } }
      | .fetch _ => s
      | .anchorResult => s
    else s
  s.endUnit

end State

/-- ANCHOR_RESULT_WRITE_RESPONSE (R163, R169). -/
def execAnchorResultWriteResponse (r : Resp) (s : State) : Result :=
  guarded (.anchorResultWriteResponse r)
    (match s.ownAnswered .anchorResult with
      | none => .fault .noTransaction
      | some d => finish s (((s.quiet).endOwnWrite .anchorResult d r).endAnchorWrite))

/-- RESULT_WRITE_RESPONSE (R163, R175). -/
def execResultWriteResponse (r : Resp) (s : State) : Result :=
  guarded (.resultWriteResponse r)
    (match s.ownAnswered .immediateResult, s.ownAnswered .completionResult with
      | some d, _ => finish s (((s.quiet).endOwnWrite .immediateResult d r).endResultWrite .immediate)
      | none, some d => finish s (((s.quiet).endOwnWrite .completionResult d r).endResultWrite .completion)
      | none, none => .fault .noTransaction)

end Sys2Proof.Machine
end

