-- ==== Sys2Proof/Machine/Fabric.lean ====
section
/-! DEFINITION. The fabric port: the acceptance of addresses (R156 to R161), data beats of plain, control and refused
writes (R157), and what is returned upstream in its turn (R64, R65, R162). -/

namespace Sys2Proof.Machine

/-- A write burst as it is accepted. -/
def upWrite (tag : Nat) (a : AddrPhase) (cls : WriteClass) (watch : Option (Addr × Nat)) : UpWrite where
  tag := tag
  a := a
  cls := cls
  left := a.len
  ready := none
  downResp := none
  cut := false
  watch := watch
  mask := 0
  copy := 0

/-- The request of a plain or control write on the memory port (R157, R160); the other classes make none at their
acceptance. -/
def forwardedWrite (tag : Nat) (a : AddrPhase) : WriteClass → List DownWrite
  | .plain => [{ owner := .plain, tag := tag, upId := a.id, a := a, unsent := a.len, buffer := [] }]
  | .control => [{ owner := .plain, tag := tag, upId := a.id, a := a, unsent := a.len, buffer := [] }]
  | .capture _ _ _ => []
  | .refused _ => []

/-- A fabric write's address is accepted (R156, R161). -/
def State.acceptWrite (s : State) (a : AddrPhase) : State :=
  let p := s.path
  let cls := classifyWrite s a
  s.setPath
    { p with
      writes := p.writes ++ [upWrite p.nextTag a cls (watchOf s a cls)]
      readyW := p.readyW ++ forwardedWrite p.nextTag a cls
      nextTag := p.nextTag + 1 }

/-- FABRIC_WRITE_ACCEPT: while 16 writes are outstanding the address is held (R156, R161). -/
def execFabricWriteAccept (a : AddrPhase) (s : State) : Result :=
  guarded (.fabricWriteAccept a)
    (if s.path.writes.length < Config.maxOutstanding then finish s ((s.quiet).acceptWrite a) else stays s)

/-- A read burst joins the outstanding reads with its memory-port reads. -/
def State.pushRead (s : State) (a : AddrPhase) (cls : ReadClass) (down : List DownRead) : State :=
  let p := s.path
  s.setPath
    { p with
      reads := p.reads ++ [{ tag := p.nextTag, a := a, cls := cls, held := [], passed := 0 }]
      readyR := p.readyR ++ down
      nextTag := p.nextTag + 1 }

/-- A read that the path unit answers itself, every beat SLVERR (R157, R158, R159). -/
def State.answerSelf (s : State) (a : AddrPhase) (data : List Beat) : State :=
  (s.pushRead a .answered []).answerRead s.path.nextTag (data.map fun d => { data := d, resp := .slverr })

/-- A view read is accepted, reported to its display latch, and charged to its slot (R56, R57, R59, R63). -/
def State.acceptViewRead (s : State) (a : AddrPhase) (v : Side) (base : Addr) (refused : Bool) : State :=
  let r := readRecord v (s.view v) (s.geometry v) a (a.addr.toNat - base.toNat) refused
  let tag := s.path.nextTag
  let s := s.pushRead a (.view r) (pieceReads v tag r.pieces)
  let s :=
    match r.charged with
    | some i => s.setView v ((s.view v).modifySlot i fun sl => { sl with reads := sl.reads + 1 })
    | none => s
  s.reportRead v

/-- A fabric read's address is accepted (R156, R161). -/
def State.acceptRead (s : State) (a : AddrPhase) : State :=
  match classifyRead s a with
  | .plain =>
    s.pushRead a .plain [{ owner := .plain, tag := s.path.nextTag, a := a, unreturned := a.len }]
  | .zeros => s.answerSelf a (List.replicate a.len 0)
  | .unstated =>
    (s.useFree a.len).answerSelf a ((List.range a.len).map fun i => Config.freeWord (s.freeIndex + i))
  | .view v base refused => s.acceptViewRead a v base refused

/-- FABRIC_READ_ACCEPT: while 16 reads are outstanding the address is held (R156, R161). -/
def execFabricReadAccept (a : AddrPhase) (s : State) : Result :=
  guarded (.fabricReadAccept a)
    (if s.path.reads.length < Config.maxOutstanding then finish s ((s.quiet).acceptRead a) else stays s)

/-- The write whose data the fabric delivers next: data comes in the order of the accepted addresses (R161). -/
def Path.dataOwner (p : Path) : Option UpWrite := p.writes.find? fun u => u.left != 0

/-- The evidence at the last beat of a refused write (R157, R158). -/
def State.refusalEvidence (s : State) (a : AddrPhase) : RefusalEvidence → State
  | .nothing => s
  | .guardWrite code =>
    s.evidence guardWriteEntry (.fail (detailAddress code (a.id.setWidth 8) a.addr) none s.timebase)
  | .captureRefused v reason offset =>
    s.failView .captureRefused v (detailCaptureRefused reason a.id offset) none s.timebase

/-- A beat of a refused write is discarded, and the write is answered after its last (R157). -/
def State.takeRefusedBeat (s : State) (u : UpWrite) (e : RefusalEvidence) : State :=
  let s := s.setPath (s.path.modifyWrite u.tag fun u => { u with left := u.left - 1 })
  if u.left = 1 then (s.refusalEvidence u.a e).answerWrite u.tag .slverr else s

/-- A beat of a plain or control write is passed to the memory port unchanged, and the watched record is copied from it
(R157, R160, R168). -/
def State.passBeat (s : State) (u : UpWrite) (data : Beat) (strb : Strobes) : State :=
  let p := s.path.modifyWrite u.tag fun u => { u.watchBeat data strb with left := u.left - 1 }
  (s.setPath
    { p with
      downW := p.downW.map fun d =>
        if d.tag = u.tag ∧ d.owner = .plain then { d with buffer := d.buffer ++ [.raw data strb] } else d }).drain

/-- The memory port takes data of this write now: its address has been granted, and the data of every write granted
before it has been sent (R161, R164). -/
def Path.takesDataOf (p : Path) (u : UpWrite) : Bool :=
  match p.dataHead with
  | some d => d.tag == u.tag && d.owner == .plain
  | none => false

/-- WRITE_DATA_BEAT (R157, R161). -/
def execWriteDataBeat (data : Beat) (strb : Strobes) (s : State) : Result :=
  match s.path.dataOwner with
  | none => stays s
  | some u =>
    match u.cls with
    | .refused e => finish s ((s.quiet).takeRefusedBeat u e)
    | .plain => if s.path.takesDataOf u then finish s ((s.quiet).passBeat u data strb) else stays s
    | .control => if s.path.takesDataOf u then finish s ((s.quiet).passBeat u data strb) else stays s
    | .capture _ _ _ => stays s

/-- VIEW_READ_RELEASE: the oldest read of an upstream ID, a view read ready for release, is returned (R64, R65). -/
def execViewReadRelease (id : BusId) (s : State) : Result :=
  match s.path.firstRead id with
  | none => stays s
  | some u =>
    match u.cls with
    | .view r =>
      if r.ready then
        finish s (((s.quiet).setPath (s.path.dropRead u.tag)).emit [.upData id (s.releaseData r u.a.len)])
      else stays s
    | .plain => stays s
    | .answered => stays s

/-- HELD_RESPONSE_RELEASE: a response or read data held behind earlier bursts of its ID is returned in its turn (R34,
R162). -/
def execHeldResponseRelease (ch : Channel) (id : BusId) (s : State) : Result :=
  match ch with
  | .write => finish s ((s.quiet).releaseWrite id)
  | .read => finish s ((s.quiet).releaseRead id)

end Sys2Proof.Machine
end

