-- ==== Sys2Proof/Machine/Capture.lean ====
section
/-! DEFINITION. The development unit's work on a capture burst: its opening (R27), each of its beats (R28 to R33), and
its end (R34). -/

namespace Sys2Proof.Machine

/-- The frame that the evidence of a burst's own fate names (R119). -/
def Binding.named : Binding → Option (BitVec 32)
  | .slot _ n => some n
  | .unslotted _ => none
  | .unframed => none
  | .stopped => none

/-- What a burst is bound to at its opening (R26, R27). -/
def openBinding (x : View) (whileStopped : Bool) : Binding :=
  if whileStopped = true ∨ x.state = .stopped then .stopped
  else
    match x.capture with
    | .none => .unframed
    | .unslotted n => .unslotted n
    | .slotted i =>
      match (x.slot? i).bind Slot.sequence with
      | some n => .slot i n
      | none => .unframed

/-- The run of a burst of `len` beats from offset `o`, against the fill point `p` and the raw frame's bytes `l` (R27). -/
def runOf (o len p l : Nat) : Option (Nat × Nat) :=
  let first := max o p
  let last := min (o + 16 * (len - 1)) (l - 16)
  if first ≤ last ∧ 16 ≤ l then some (first, last) else none

/-- The memory-port write that carries a run (R31). -/
def runWrite (v : Side) (u : UpWrite) (slot : Nat) (sequence : BitVec 32) (base : Addr) (run : Nat × Nat) : DownWrite :=
  let first := run.1 / 2 / 16
  let units := (run.2 / 2 + 7) / 16 - first + 1
  { owner := .dev v slot sequence
    tag := u.tag
    upId := u.a.id
    a := incrBurst (viewBusId v) (BitVec.ofNat 36 (base.toNat + 16 * first)) units
    unsent := units
    buffer := [] }

namespace State

/-- A burst opens: the open-burst record is filled, and the run's memory write is issued with the slot's outstanding
write count raised (R27, R31). An unaligned start is taken down to its beat (log entry 15). -/
def openBurst (s : State) (v : Side) (u : UpWrite) (base : Addr) (whileStopped : Bool) : State :=
  let x := s.view v
  let o := (u.a.addr.toNat - base.toNat) / 16 * 16
  let binding := openBinding x whileStopped
  let record : OpenBurst :=
    { tag := u.tag, binding := binding, nextOffset := o, run := none, cut := none, half := none, openFill := 0, lastFill := 0 }
  match binding with
  | .slot i n =>
    match x.fillingWith i n, x.slot? i with
    | some f, some sl =>
      let run := runOf o u.a.len f.fillPoint (s.geometry v).rawBytes
      let record := { record with run := run, openFill := f.fillPoint, lastFill := f.fillPoint }
      match run with
      | some r =>
        let x := x.modifySlot i fun sl => { sl with frame := some { f with writes := f.writes + 1 } }
        (s.setView v { x with burst := some record }).setPath
          { s.path with readyW := s.path.readyW ++ [runWrite v u i n sl.base r] }
      | none => s.setView v { x with burst := some record }
    | _, _ => s.setView v { x with burst := some record }
  | .unslotted _ => s.setView v { x with burst := some record }
  | .unframed => s.setView v { x with burst := some record }
  | .stopped => s.setView v { x with burst := some record }

/-- The open burst of a view, changed. -/
def setBurst (s : State) (v : Side) (b : OpenBurst) : State := s.setView v { s.view v with burst := some b }

/-- The half of a memory beat that the beat at offset `o` of the run carries: a memory beat is sent once both of its
halves, or its one half, are there; `none` is a half with clear strobes (R31, R32). -/
def carryHalf (s : State) (v : Side) (b : OpenBurst) (o : Nat) (bytes : Option (BitVec 64)) : State :=
  if o / 16 % 2 = 1 then (s.setBurst v { b with half := none }).pushData b.tag (.halves b.half.join bytes)
  else if (b.run.map Prod.snd) = some o then
    (s.setBurst v { b with half := none }).pushData b.tag (.halves bytes none)
  else s.setBurst v { b with half := some bytes }

/-- The beat at offset `o` lies in the run (R27). -/
def inRun (b : OpenBurst) (o : Nat) : Bool :=
  match b.run with
  | some (first, last) => decide (first ≤ o) && decide (o ≤ last)
  | none => false

/-- ORDER_BREACH of a dropped beat (R29, R30, R181); none of a burst that was open at a DETACH (R42). -/
def orderBreach (s : State) (v : Side) (quietly : Bool) (reason o fill : Nat) (n : Option (BitVec 32)) : State :=
  if quietly then s else s.failView .orderBreach v (detailOrderBreach reason o fill) n s.timebase

/-- The first developed beat of a frame is reported to the capture latch (R28, R102). -/
def firstBeat (s : State) (v : Side) : State :=
  let l := (s.view v).captureLatch
  let s := s.setView v { s.view v with captureLatch := { l with awaiting := false } }
  if l.awaiting then s.passView .emptyFrame v else s

/-- A beat of the run is developed, measured and forwarded (R28, R37 to R39, R45, R46). -/
def developAt (s : State) (v : Side) (b : OpenBurst) (i : Nat) (f : Frame) (o : Nat) (data : Beat) : State :=
  let f' := f.take (s.geometry v) o data
  let s := s.setView v ((s.view v).modifySlot i fun sl => { sl with frame := some f' })
  let s := s.carryHalf v { b with lastFill := o + 16 } o (some (developedBytes f.snapshot data))
  if f.fillPoint = 0 then s.firstBeat v else s

/-- A beat of a burst bound to slot `i` with sequence `n`, the burst not cut (R28, R32, R42). A beat outside the run that
is taken once its frame has COMPLETED is dropped as one of a settled frame (R32): by the fill point at the burst's opening,
with the frame's last fill point in the detail (DESIGN CHOICE, log entry 43). -/
def slotBeat (s : State) (v : Side) (b : OpenBurst) (quietly : Bool) (i : Nat) (n : BitVec 32) (o : Nat) (data : Beat) :
    State :=
  match (s.view v).fillingWith i n with
  | some f =>
    if inRun b o then s.developAt v b i f o data
    else s.orderBreach v quietly (if o < f.fillPoint then 0 else 1) o f.fillPoint (some n)
  | none =>
    if inRun b o then s.carryHalf v b o none
    else s.orderBreach v quietly (if o < b.openFill then 0 else 1) o b.lastFill (some n)

/-- The strobe check of one beat; the first beat of an unaligned start is partial (R33). -/
def fullBeat (u : UpWrite) (strb : Strobes) : Bool :=
  strb == BitVec.allOnes 16 && (u.left != u.a.len || u.a.addr.toNat % 16 == 0)

/-- One beat of the open burst, by its binding (R26, R28, R29, R32, R33); `quietly`: the burst was outstanding at a
DETACH (R42). A beat outside the run of a cut slot-bound burst gives no ORDER_BREACH, whether its frame is FILLING or has
been settled (DESIGN CHOICE, log entry 43). -/
def burstBeat (s : State) (v : Side) (quietly : Bool) (u : UpWrite) (b : OpenBurst) (data : Beat) (strb : Strobes) :
    State :=
  let o := b.nextOffset
  let cut := if b.binding = .stopped then none else b.cut.or (if fullBeat u strb then none else some o)
  let b := { b with nextOffset := o + 16, cut := cut }
  let s := s.setBurst v b
  match b.binding with
  | .stopped => s
  | .unframed => s.orderBreach v quietly 2 o 0 none
  | .unslotted n => s.orderBreach v quietly 3 o 0 n
  | .slot i n =>
    if cut.isSome then (if inRun b o then s.carryHalf v b o none else s) else s.slotBeat v b quietly i n o data

/-- The last beat has been taken: CAPTURE_REFUSED of a cut burst, and the response, unless the run's memory write is
still to be answered (R33, R34, log entry 16). -/
def endBurst (s : State) (v : Side) (u : UpWrite) (b : OpenBurst) : State :=
  let s := s.setView v { s.view v with burst := none }
  let s :=
    match b.cut with
    | some o => s.failView .captureRefused v (detailCaptureRefused 0 u.a.id o) b.binding.named s.timebase
    | none => s
  let s := s.setPath (s.path.modifyWrite u.tag fun u => { u with cut := b.cut.isSome })
  match b.run, u.downResp with
  | none, _ => s.answerWrite u.tag (upstreamResp b.cut.isSome)
  | some _, some r => s.answerWrite u.tag (if b.cut.isSome then .slverr else r)
  | some _, none => s

/-- The development unit takes one beat of the capture burst `u` of view `v` (R25 to R34). -/
def takeCaptureBeat (s : State) (v : Side) (base : Addr) (whileStopped : Bool) (u : UpWrite) (data : Beat)
    (strb : Strobes) : State :=
  let s := if u.left = u.a.len then s.openBurst v u base whileStopped else s
  let s := s.setPath (s.path.modifyWrite u.tag fun u => { u with left := u.left - 1 })
  match (s.view v).burst with
  | none => s
  | some b =>
    let s := s.burstBeat v whileStopped u b data strb
    if u.left = 1 then
      match (s.view v).burst with
      | some b => s.endBurst v u b
      | none => s
    else s

end State

/-- CAPTURE_BEAT (R25, R28, R161). -/
def execCaptureBeat (data : Beat) (strb : Strobes) (s : State) : Result :=
  match s.path.dataOwner with
  | none => stays s
  | some u =>
    match u.cls with
    | .capture v base whileStopped => finish s ((s.quiet).takeCaptureBeat v base whileStopped u data strb)
    | .plain => stays s
    | .control => stays s
    | .refused _ => stays s

end Sys2Proof.Machine
end

