-- ==== Sys2Proof/Machine/Clocks.lean ====
section
/-! DEFINITION. The resets (R144, R150, R165, R167), the timebase (R100) and the PWM counter (R109, R110). -/

namespace Sys2Proof.Machine

/-- The anchor address the straps select (R167). -/
def anchorAddress (anc1 anc0 : Bool) : Addr :=
  match anc1, anc0 with
  | false, false => 0x07FF00000
  | false, true => 0x0FFF00000
  | true, false => 0x1FFF00000
  | true, true => 0x3FFF00000

/-- The part after a reset, over the history store that the reset leaves (R165, R167). The commands that wait and the
count of free values used are the model's own and are kept. -/
def State.afterReset (s : State) (anc1 anc0 : Bool) (h : History) : State :=
  { State.reset with
    pending := s.pending
    attach := .reset (anchorAddress anc1 anc0)
    history := h
    freeIndex := s.freeIndex + 1 }

/-- POWER_ON_RESET (R144, R149, R167). -/
def execPowerOnReset (anc1 anc0 : Bool) (s : State) : Result :=
  .next (s.afterReset anc1 anc0 (.powerOn (s.history.atPowerLoss s.freeValue)))

/-- LINK_RESET (R150, R165, R167). -/
def execLinkReset (anc1 anc0 : Bool) (s : State) : Result :=
  .next (s.afterReset anc1 anc0 (s.history.linkReset s.freeValue))

/-- TIMEBASE_TICK: a microsecond passes for the timebase, the status holdoff and the array (R100, R142, R145, R147, log
entry 12). -/
def execTimebaseTick (s : State) : Result :=
  let w := s.report.status
  finish s
    (((((s.quiet).setTimebase (s.timebase + 1)).setReport
      { s.report with status := { w with holdoff := w.holdoff - 1 } }).setHistory s.history.tick).serveArray)

/-- The channels' working duties at a wrap (R110). -/
def View.loadDuty (x : View) : View := { x with working := x.staged }

/-- PWM_WRAP: the counter passes from P + 1 to 0, and the working values are loaded (R109, R110). -/
def execPwmWrap (s : State) : Result :=
  let p := s.pwm
  if p.counting = true ∧ p.counter = p.workingP + 1 then
    let s' := (s.quiet).setPwm { p with counter := 0, workingD := p.stagedD, workingP := p.stagedP }
    finish s (s'.setViews { left := s.views.left.loadDuty, right := s.views.right.loadDuty })
  else stays s

/-- PWM_CLOCK: a PWM clock that is not a wrap (R109). -/
def execPwmClock (s : State) : Result :=
  let p := s.pwm
  if p.counting = true ∧ p.counter < p.workingP + 1 then
    finish s ((s.quiet).setPwm { p with counter := p.counter + 1 })
  else stays s

end Sys2Proof.Machine
end

