-- ==== Sys2Proof/Machine/Commands.lean ====
section
/-! DEFINITION. The commands of the command record: their handover (R160, R174) and the meaning of each. A command row
takes place when the command in hand is that command (log entry 4). -/

namespace Sys2Proof.Machine

/-! ## Handover -/

/-- The code of DETACH (R180). -/
def detachCode : Byte := 12

namespace State

/-- A copy handed over in ATTACHED (R174): unused, refused with BUSY, or in hand. The write that carried it is then
answered OKAY (R160), but for a DETACH, whose write is answered when it has been carried out (R177). -/
def takeHandover (s : State) (h : Handover) : State :=
  let r := h.record
  if r.issue = 0 ∨ r.issue = s.attach.lastIssue then s.answerWrite h.tag .okay
  else
    let s := s.setAttach { s.attach with lastIssue := r.issue }
    if r.code = detachCode then s.setAttach { s.attach with inHand := some h }
    else if s.attach.inFlight.isSome then (s.reply r.issue .busy).answerWrite h.tag .okay
    else (s.setAttach { s.attach with inHand := some h }).answerWrite h.tag .okay

end State

/-- COMMAND_HANDOVER: the copy whose write was answered first is handed over; outside ATTACHED it is dropped (R160,
R174). -/
def execCommandHandover (s : State) : Result :=
  match s.attach.inHand, s.attach.handovers with
  | none, h :: rest =>
    let s' := (s.quiet).setAttach { s.attach with handovers := rest }
    finish s (if s.attach.state = .attached then s'.takeHandover h else s'.answerWrite h.tag .okay)
  | _, _ => stays s

/-- Carries out the command in hand if it is the command `i`; `f` is its effect, given the handover (R174). -/
def carryOut (i : Instr) (s : State) (f : Handover → State → State) : Result :=
  match s.attach.inHand with
  | some h =>
    if h.record.command = i then finish s (f h ((s.quiet).setAttach { s.attach with inHand := none })) else stays s
  | none => stays s

/-- UNKNOWN_COMMAND_CODE (R174). -/
def execUnknownCommandCode (code : Byte) (s : State) : Result :=
  carryOut (.unknownCommandCode code) s fun h s => s.reply h.record.issue .badArgument

/-! ## Views -/

/-- A command's effect on the view that its view field names; any other value is refused (section 1.7, R69). -/
def State.onView (s : State) (view : Byte) (f : Side → State → State × ResultCode) : State × ResultCode :=
  match sideOf view with
  | some v => f v s
  | none => (s, .badArgument)

/-- An effect and its result (R175). -/
def State.posting (h : Handover) (r : State × ResultCode) : State := r.1.reply h.record.issue r.2

/-- A view after START_VIEW at a time (R17, R52, R104). -/
def View.started (x : View) (t : Time) : View :=
  { x with
    state := .starting
    startTime := t
    lastSignature := none
    captureLatch := { x.captureLatch with awaiting := false }
    displayLatch := { x.displayLatch with awaiting := false } }

/-- A slot of a view that stops (R18). -/
def Slot.stopped (sl : Slot) : Slot :=
  match sl.state with
  | .filling => sl.toFree
  | .ready => sl.toFree
  | .shown => sl.leaveShown
  | .free => sl
  | .draining => sl
  | .pinned => sl

/-- A view after the work of a stop (R18, R52, R96, R113). -/
def View.stopped (x : View) : View :=
  { x with
    state := .stopped
    slots := x.slots.map Slot.stopped
    capture := .none
    shown := none
    levelValid := false
    glare := []
    staged := 0 }

/-- The PINNED slot of a view. -/
def View.pinnedSlot (x : View) : Option Nat := firstIndex (fun sl => sl.state == .pinned) x.slots

/-- The SHOWN slot of a view, if it carries the pin request. -/
def View.requestedSlot (x : View) : Option Nat :=
  firstIndex (fun sl => sl.state == .shown && sl.pinRequest) x.slots

/-- A PINNED slot after RELEASE_PIN (R20). -/
def Slot.released (sl : Slot) : Slot := if sl.reads = 0 then sl.toFree else { sl with state := .draining }

namespace State

/-- The view reads accepted before a START_VIEW release the pattern (R64). -/
def markRestarted (s : State) (v : Side) : State :=
  s.setPath
    { s.path with
      reads := s.path.reads.map fun u =>
        match u.cls with
        | .view r => if r.view = v then { u with cls := .view { r with restarted := true } } else u
        | .plain => u
        | .answered => u }

/-- No transition is pending while both views are STOPPED (R81). -/
def settleLadder (s : State) : State :=
  if (s.view .left).state = .stopped ∧ (s.view .right).state = .stopped then
    s.setLadder { s.ladder with pending := none }
  else s

/-- The work of a stop (R18, R81). -/
def stopWork (s : State) (v : Side) : State := (s.setView v (s.view v).stopped).settleLadder

/-- START_VIEW of a view (R17). -/
def startView (v : Side) (s : State) : State × ResultCode :=
  if (s.view v).live then (s, .already)
  else ((s.setView v ((s.view v).started s.timebase)).markRestarted v, .done)

/-- STOP_VIEW of a view: its pending parts are taken first (R18, R173). -/
def stopView (v : Side) (s : State) : State × ResultCode :=
  if (s.view v).live then (((s.takeDev v).takeFlip v).stopWork v, .done) else (s, .already)

/-- SET_PAN of a view (R69). -/
def setPan (px py : BitVec 16) (v : Side) (s : State) : State × ResultCode :=
  let x := s.view v
  let p := clampPan (s.geometry v) (px.toNat, py.toNat)
  (s.setView v (if x.live then { x with panTarget := p } else { x with pan := p, panTarget := p }), .done)

/-- PIN_FRAME of a view (R19). -/
def pinFrame (v : Side) (s : State) : State × ResultCode :=
  let x := s.view v
  if x.pinnedSlot.isSome ∨ x.requestedSlot.isSome then (s, .already)
  else
    match x.shown with
    | none => (s, .nothingShown)
    | some i => (s.setView v (x.modifySlot i fun sl => { sl with pinRequest := true }), .done)

/-- RELEASE_PIN of a view (R20). -/
def releasePin (v : Side) (s : State) : State × ResultCode :=
  let x := s.view v
  match x.pinnedSlot, x.requestedSlot with
  | some i, _ => (s.setView v (x.modifySlot i Slot.released), .done)
  | none, some i => (s.setView v (x.modifySlot i fun sl => { sl with pinRequest := false }), .done)
  | none, none => (s, .already)

end State

/-- START_VIEW (R17). -/
def execStartView (view : Byte) (s : State) : Result :=
  carryOut (.startView view) s fun h s => State.posting h (s.onView view State.startView)

/-- STOP_VIEW (R18). -/
def execStopView (view : Byte) (s : State) : Result :=
  carryOut (.stopView view) s fun h s => State.posting h (s.onView view State.stopView)

/-- SET_PAN (R69). -/
def execSetPan (view : Byte) (px py : BitVec 16) (s : State) : Result :=
  carryOut (.setPan view px py) s fun h s => State.posting h (s.onView view (State.setPan px py))

/-- PIN_FRAME (R19). -/
def execPinFrame (view : Byte) (s : State) : Result :=
  carryOut (.pinFrame view) s fun h s => State.posting h (s.onView view State.pinFrame)

/-- RELEASE_PIN (R20). -/
def execReleasePin (view : Byte) (s : State) : Result :=
  carryOut (.releasePin view) s fun h s => State.posting h (s.onView view State.releasePin)

/-! ## Reports, faults and the ladder -/

namespace State

/-- ACK_REPORTS (R138, R139, R142). -/
def ackReports (count : BitVec 32) (s : State) : State × ResultCode :=
  let r := s.report
  if count - r.consume ≤ r.produce - r.consume then
    (s.setReport { r with consume := count, held := false, status := { r.status with suspended := false } }, .done)
  else (s, .badArgument)

/-- CLEAR_FAULT (R129). -/
def clearFault (entry : Byte) (s : State) : State × ResultCode :=
  let i := entry.toNat
  if Config.faultCount ≤ i then (s, .badArgument)
  else
    match (s.fault i).state with
    | .recovered => ((s.setFault i { s.fault i with state := .clear }).reportTransition i .toClear, .done)
    | .active => (s, .stillActive)
    | .clear => (s, .done)
    | .suspect => (s, .done)

/-- HOLD_MODE (R78, R80). -/
def holdMode (m : Byte) (s : State) : State × ResultCode :=
  match heldMode m with
  | some d => (s.setLadder { mode := d, hold := some d, pending := none }, .done)
  | none =>
    if m = 3 then
      match s.ladder.hold with
      | some _ => (s.setLadder { s.ladder with hold := none, pending := none }, .done)
      | none => (s, .already)
    else (s, .badArgument)

end State

/-- ACK_REPORTS (R139). -/
def execAckReports (count : BitVec 32) (s : State) : Result :=
  carryOut (.ackReports count) s fun h s => State.posting h (s.ackReports count)

/-- CLEAR_FAULT (R129). -/
def execClearFault (entry : Byte) (s : State) : Result :=
  carryOut (.clearFault entry) s fun h s => State.posting h (s.clearFault entry)

/-- HOLD_MODE (R80). -/
def execHoldMode (mode : Byte) (s : State) : Result :=
  carryOut (.holdMode mode) s fun h s => State.posting h (s.holdMode mode)

/-! ## The history store -/

namespace State

/-- The 1,024 bytes from an address touch a table entry, a slot or the report area (R151). -/
def copyForbidden (s : State) (a : Nat) : Bool :=
  (s.table.any fun e =>
    match e with
    | some r => rangesMeet a (a + 1024) r.base.toNat r.last
    | none => false) ||
    (slotGuards s .left ++ slotGuards s .right ++ [reportGuard s]).any fun g => g.meets a (a + 1024)

/-- A long operation is accepted: it is the command in flight (R174, R175). -/
def acceptLong (s : State) (op : LongOperation) (issue : BitVec 32) : State :=
  (s.setAttach { s.attach with inFlight := some (op, issue) }).reply issue .accepted

/-- COPY_HISTORY (R151). -/
def copyHistory (issue : BitVec 32) (sector : Byte) (addr : BitVec 64) (s : State) : State :=
  let a := (addrField addr).toNat
  let h := s.history
  let erasing : Bool :=
    match h.erase with
    | some e => e.sector == sector.toNat
    | none => false
  if 7 < sector.toNat ∨ a % 1024 ≠ 0 ∨ s.copyForbidden a = true then s.reply issue .badArgument
  else if erasing = true ∨ h.clearing.isSome = true then s.reply issue .busy
  else
    ((s.acceptLong .copyHistory issue).setHistory
      { h with waiting := h.waiting ++ [.copy sector.toNat], copyAddr := addrField addr }).serveArray

/-- CLEAR_HISTORY (R152). -/
def clearHistory (issue confirmation : BitVec 32) (s : State) : State :=
  let h := s.history
  if confirmation ≠ ~~~issue then s.reply issue .badArgument
  else if h.lock then s.reply issue .locked
  else if h.scanning = true ∨ h.clearing.isSome = true then s.reply issue .busy
  else if h.disabled then s.reply issue .failed
  else
    let s := s.acceptLong .clearHistory issue
    if h.op.isSome then s.setHistory { h with clearing := some .waiting }
    else (s.beginClear).serveArray

end State

/-- COPY_HISTORY (R151). -/
def execCopyHistory (sector : Byte) (addr : BitVec 64) (s : State) : Result :=
  carryOut (.copyHistory sector addr) s fun h s => s.copyHistory h.record.issue sector addr

/-- CLEAR_HISTORY (R152). -/
def execClearHistory (confirmation : BitVec 32) (s : State) : Result :=
  carryOut (.clearHistory confirmation) s fun h s => s.clearHistory h.record.issue confirmation

/-! ## APPLY_SETTINGS and DETACH -/

namespace State

/-- APPLY_SETTINGS up to its fetch (R176). -/
def applySettings (issue : BitVec 32) (addr : BitVec 64) (s : State) : State :=
  let a := addrField addr
  if a = 0 ∨ a.toNat % 4096 ≠ 0 then s.reply issue .badArgument
  else (s.acceptLong .applySettings issue).want (.fetch a)

/-- A view at a DETACH: its pending parts are discarded, and it is stopped unless it is (R18, R177). -/
def detachView (s : State) (v : Side) : State :=
  let s := s.setView v { s.view v with pendingDev := none, pendingFlip := none }
  if (s.view v).live then s.stopWork v else s

/-- A copy that has not been issued is abandoned; a copy whose burst has been granted is void (R151, R177, log entry
32). -/
def abandonCopy (s : State) : State :=
  let h := s.history
  let isCopy := fun (r : ArrayRequest) =>
    match r with
    | .copy _ => true
    | _ => false
  let waiting := h.waiting.filter fun r => !isCopy r
  let s := s.setHistory
    { h with
      waiting := waiting
      copyData := none
      copyFlight := if s.ownQueued .copy then none else h.copyFlight.map fun _ => { void := true }
      erase := h.erase.map fun e =>
        if e.phase = .requested ∧ waiting = [] then { e with phase := .running } else e }
  match h.op with
  | some (.copy _) => s.afterOp
  | _ => s

/-- The report writer at a DETACH: a write still queued is removed, a granted one is void (R140, R165). -/
def abandonReports (s : State) : State :=
  let s := s.voidReports
  let r := s.report
  s.setReport { r with
    flight := if s.ownQueued .record then none else r.flight
    status := { r.status with flight := if s.ownQueued .status then none else r.status.flight } }

/-- The attachment unit at a DETACH: the images, what is due and the command in flight are discarded, a queued request
is removed and a granted one is void (R177). The drive cycle number is kept (DESIGN CHOICE, log entry 45). -/
def detachUnit (s : State) : State :=
  let a := s.attach
  s.setAttach { a with
    state := .transparent
    inFlight := none
    immediate := .reset
    completion := .reset
    wanted := []
    request :=
      match a.request with
      | some r => if s.ownQueued r.item.source then none else some { r with void := true }
      | none => none }

/-- The own-traffic queue is emptied (R165). -/
def emptyQueue (s : State) : State := s.setPath { s.path with own := [], countW := 0, countR := 0 }

/-- A capture write accepted before a DETACH that has not opened its burst is bound as stopped when it opens, and the
beats of an open burst that fall outside its run are dropped without evidence, whatever the view does in between (R42,
R165). -/
def UpWrite.boundStopped (u : UpWrite) : UpWrite :=
  match u.cls with
  | .capture v base _ => { u with cls := .capture v base true }
  | _ => u

/-- The capture writes that a DETACH finds not answered (R42, R165). -/
def bindStopped (s : State) : State := s.setPath { s.path with writes := s.path.writes.map UpWrite.boundStopped }

/-- DETACH (R165, R177). -/
def detach (s : State) : State :=
  (((((((s.detachView .left).detachView .right).abandonCopy).abandonReports).detachUnit).emptyQueue).bindStopped)

end State

/-- APPLY_SETTINGS (R176). -/
def execApplySettings (addr : BitVec 64) (s : State) : Result :=
  carryOut (.applySettings addr) s fun h s => s.applySettings h.record.issue addr

/-- DETACH: complete before the write that carried it is answered OKAY (R160, R177). -/
def execDetach (s : State) : Result :=
  carryOut .detach s fun h s => s.detach.answerWrite h.tag .okay

end Sys2Proof.Machine
end

