-- ==== Sys2Proof/Machine/HistoryStore.lean ====
section
/-! DEFINITION. The history store's events (R145 to R152). -/

namespace Sys2Proof.Machine

/-! ## Programs -/

/-- The head of the store queue can be served, but for the array being busy (R145, R152). -/
def History.servable (h : History) : Bool :=
  !h.queue.isEmpty && h.room && !h.scanning && !h.disabled && h.clearing.isNone && !h.waiting.contains .record &&
    match h.op with
    | some (.record _ _ _) => false
    | _ => true

/-- STORE_REQUEST_SERVE: the head request asks for the array, which serves it or is first asked to suspend an erase
(R145, R148). -/
def execStoreRequestServe (s : State) : Result :=
  if s.history.servable then
    finish s (((s.quiet).setHistory { s.history with waiting := s.history.waiting ++ [.record] }).serveArray)
  else stays s

namespace State

/-- A record has been committed (R125, R145). -/
def commitDone (s : State) (i : Nat) (content : Beat) : State :=
  let h := s.history
  let s := s.setHistory
    { h.setWord h.active h.nextPosition (commitRecord content) with
      nextPosition := h.nextPosition + 1
      nextRecord := nextNumber h.nextRecord s.freeValue
      queue := h.queue.filter fun j => j != i
      retried := false }
  let s := ((s.useFree 1).setFault i { s.fault i with stored := true }).storePass
  (s.setHistory s.history.rotate).afterOp

/-- A record program has failed: its position is spoiled, and the request is tried once more; after a second failure it is
discarded, the stored-this-cycle flag of its entry clear (R145, log entries 27 and 44). -/
def commitFailed (s : State) (i : Nat) (content : Beat) : State :=
  let h := s.history
  let p := h.nextPosition
  let s := s.spoil h.active p (spoiledRecord content)
  let s := (s.setHistory { s.history with nextPosition := p + 1 }).storeFail 0 h.active p
  let s :=
    if h.retried then
      (s.setHistory { s.history with retried := false, queue := s.history.queue.filter fun j => j != i }).clearStored [i]
    else s.setHistory { s.history with retried := true }
  let again : Bool := !h.retried && s.history.room && s.history.clearing.isNone
  if again then (s.setHistory { s.history with op := none }).startRequest .record
  else (s.setHistory s.history.rotate).afterOp

end State

/-- RECORD_PROGRAM_DONE: 80 µs after its start (R145). -/
def execRecordProgramDone (ok : Bool) (s : State) : Result :=
  match s.history.op with
  | some (.record i content 0) =>
    finish s (if ok then (s.quiet).commitDone i content else (s.quiet).commitFailed i content)
  | _ => stays s

namespace State

/-- The active sector is full: a new one is needed, but for a CLEAR_HISTORY (R146, R152). -/
def activeFull (s : State) (i : Nat) : State :=
  let h := { s.history with activeOpen := false }
  if h.clearing.isSome ∨ h.disabled = true then s.setHistory h
  else (s.setHistory (h.requireActive (nextNumber h.serial s.freeValue) i)).useFree 1

/-- A marker has been programmed (R146, R152). -/
def headerDone (s : State) (i : Nat) (m : Marker) : State :=
  let h := s.history.setWord i 0 (programMarker (s.history.word i 0) m)
  match m with
  | .full => ((s.setHistory (h.setState i .full)).activeFull i).afterOp
  | .active n =>
    (s.setHistory
      ({ h.setState i .active with
          active := i, serial := n, nextPosition := 1, activeOpen := true, needActive := none }.lookAhead)).clearDone.afterOp
  | .retired => (s.setHistory h).afterOp

/-- A header program has failed: the RETIRED marker is programmed over the sector, and the store proceeds as if the sector
were not there: after a FULL marker a new active sector is needed, after an ACTIVE marker it is needed again (R146,
R147). -/
def headerFailed (s : State) (i : Nat) (m : Marker) : State :=
  let s := s.spoil i 0 (partialHeader (s.history.word i 0) m)
  let s := (s.setHistory { s.history with op := none }).storeFail 1 i 0
  match m with
  | .full => (s.retire i).activeFull i
  | .active _ => (s.retire i).needAgain
  | .retired => s.afterOp

end State

/-- HEADER_PROGRAM_DONE: 80 µs after its start (R146, R147). -/
def execHeaderProgramDone (ok : Bool) (s : State) : Result :=
  match s.history.op with
  | some (.header i m 0) => finish s (if ok then (s.quiet).headerDone i m else (s.quiet).headerFailed i m)
  | _ => stays s

/-! ## Erases -/

/-- The sector whose erase can start: the next one of a CLEAR_HISTORY, or the head of the erase list (R144, R152). -/
def History.nextErase (h : History) : Option Nat :=
  if h.op.isSome = true ∨ h.erase.isSome = true ∨ h.waiting ≠ [] ∨ h.scanning = true ∨ h.disabled = true then none
  else
    match h.clearing with
    | some .waiting => none
    | some .marking => none
    | some .erasing => h.clearNext
    | none => h.eraseList.head?

/-- ERASE_START (R144, R147, R152). -/
def execEraseStart (s : State) : Result :=
  match s.history.nextErase with
  | none => stays s
  | some i =>
    let h := s.history
    finish s (((s.quiet).setHistory
      { h.setState i .invalid with
        sectors := h.sectors.set i (State.tornSector s.freeIndex)
        eraseList := h.eraseList.filter fun j => j != i
        erase := some { sector := i, remaining := Config.eraseTime, suspensions := 0, phase := .running, late := false } }).useFree 64)

/-- ERASE_SUSPEND_EFFECT: the remaining time is frozen, and the request that waits longest is served (R148). A suspension
requested earlier may still take effect once the remaining time is 0, before ERASE_DONE is taken: the erase is then frozen
at 0 and ends after its resumption (DESIGN CHOICE, log entry 12). -/
def execEraseSuspendEffect (s : State) : Result :=
  match s.history.erase, s.history.waiting with
  | some e, r :: rest =>
    if e.phase = .requested ∧ s.history.op = none then
      finish s (((s.quiet).setHistory
        { s.history with
          waiting := rest
          erase := some { e with phase := .frozen, suspensions := e.suspensions + 1 } }).startRequest r)
    else stays s
  | _, _ => stays s

namespace State

/-- A sector has been erased (R147). -/
def eraseDone (s : State) (i : Nat) : State :=
  let h := s.history
  (s.setHistory
    { h.setState i .erased with sectors := h.sectors.set i (List.replicate 64 erasedWord), erase := none }).storePass

/-- An erase has failed: the sector is retired, a look-ahead sector is replaced, and a new active sector that is needed
is needed again (R146, R147). STORE_FAULT's detail has position 0: R181 gives none for an erase (log entry 38). -/
def eraseFailed (s : State) (i : Nat) : State :=
  let ahead : Bool := s.history.aheadOf == some i
  let s := ((s.setHistory { s.history with erase := none }).storeFail 2 i 0).retire i
  let s := if ahead = true ∧ s.history.disabled = false ∧ s.history.clearing = none then
      s.setHistory s.history.lookAhead else s
  s.needAgain

/-- What follows the end of an erase (R146, R148, R152). -/
def afterErase (s : State) : State :=
  let s := s.clearStep
  (s.setHistory s.history.chooseActive).serveArray

end State

/-- ERASE_DONE: when the remaining erase time is 0 (R147); a suspension requested at that moment, before the end was
taken, comes first (R154). -/
def execEraseDone (ok : Bool) (s : State) : Result :=
  match s.history.erase with
  | none => stays s
  | some e =>
    if e.remaining = 0 ∧ (e.phase = .running ∨ e.phase = .requested ∧ e.late = false) then
      finish s (if ok then ((s.quiet).eraseDone e.sector).afterErase else ((s.quiet).eraseFailed e.sector).afterErase)
    else stays s

/-! ## The scan and the copy -/

/-- SCAN_DONE (R149). -/
def execScanDone (s : State) : Result := if s.history.scanning then finish s ((s.quiet).endScan) else stays s

namespace State

/-- The data of a copy is requested as an own write (R151, R164). -/
def issueCopy (s : State) (data : List Beat) : State :=
  (s.setHistory { s.history with copyData := none, copyFlight := some { void := false } }).requestOwn
    { src := .copy, addr := s.history.copyAddr, len := 64, data := data.map .full }

/-- A sector has been read for a copy; its write waits while a void one is still unanswered (R151, R164). -/
def copyRead (s : State) (i : Nat) : State :=
  let data := s.history.sectors.getD i []
  (if s.history.copyFlight = none then s.issueCopy data
    else s.setHistory { s.history with copyData := some data }).afterOp

/-- The write of a copy has been answered (R151). -/
def endCopy (s : State) (error : Bool) : State :=
  let void : Bool :=
    match s.history.copyFlight with
    | some f => f.void
    | none => true
  let s := s.setHistory { s.history with copyFlight := none }
  let s := if void then s else s.endLong .copyHistory (if error then .failed else .done)
  match s.history.copyData with
  | some data => s.issueCopy data
  | none => s

end State

/-- HISTORY_COPY_READ_DONE (R151). -/
def execHistoryCopyReadDone (s : State) : Result :=
  match s.history.op with
  | some (.copy i) => finish s ((s.quiet).copyRead i)
  | _ => stays s

/-- HISTORY_COPY_WRITE_RESPONSE (R151, R163). -/
def execHistoryCopyWriteResponse (r : Resp) (s : State) : Result :=
  guarded (.historyCopyWriteResponse r)
    (match s.ownAnswered .copy with
      | none => .fault .noTransaction
      | some d => finish s (((s.quiet).endOwnWrite .copy d r).endCopy (isError r)))

end Sys2Proof.Machine
end

