-- ==== Sys2Proof/Machine/MemoryPort.lean ====
section
/-! DEFINITION. The memory port: the arbiter's grants (R164) and the answers of memory to development writes (R34, R35),
view read pieces (R63, R64) and plain and control traffic (R160, R163, R168). -/

namespace Sys2Proof.Machine

/-! ## Grants -/

namespace State

/-- A forwarded write's address is granted; the data it has follows (R164). -/
def grantWrite (s : State) (d : DownWrite) : State :=
  let p := s.path
  ((s.setPath
    { p with
      readyW := dropFirst (fun e => e.tag == d.tag) p.readyW
      downW := p.downW ++ [d]
      countW := p.countAfter .write p.countW }).emit [.downWriteAddress d.a]).drain

/-- A forwarded read's address is granted (R62, R164). -/
def grantRead (s : State) (d : DownRead) (rest : List DownRead) : State :=
  let p := s.path
  (s.setPath { p with readyR := rest, downR := p.downR ++ [d], countR := p.countAfter .read p.countR }).emit
    [.downReadAddress d.a]

/-- An own request that has waited for 8 forwarded grants goes first (R164). -/
def ownFirst (s : State) (ch : Channel) : Bool :=
  (s.path.nextOwn ch).isSome &&
    match ch with
    | .write => decide (Config.ownGrantLimit ≤ s.path.countW)
    | .read => decide (Config.ownGrantLimit ≤ s.path.countR)

/-- A forwarded request of a channel is ready (R164). -/
def forwardedReady (s : State) (ch : Channel) : Bool :=
  match ch with
  | .write => s.path.nextWrite.isSome
  | .read => !s.path.readyR.isEmpty

end State

/-- FORWARDED_REQUEST_GRANT (R62, R164). -/
def execForwardedRequestGrant (ch : Channel) (s : State) : Result :=
  if s.ownFirst ch then stays s
  else
    match ch with
    | .write =>
      match s.path.nextWrite with
      | some d => finish s ((s.quiet).grantWrite d)
      | none => stays s
    | .read =>
      match s.path.readyR with
      | d :: rest => finish s ((s.quiet).grantRead d rest)
      | [] => stays s

namespace State

/-- The address of an own write; those of the result records lie in the control page (R175, log entry 23). -/
def ownAddress (s : State) (r : OwnRequest) : Addr :=
  match r.src with
  | .immediateResult => BitVec.ofNat 36 (s.controlBase + 32)
  | .completionResult => BitVec.ofNat 36 (s.controlBase + 48)
  | .fetch => r.addr
  | .anchorResult => r.addr
  | .record => r.addr
  | .status => r.addr
  | .copy => r.addr

/-- The data of an own write; a result record carries its image as it stands at the grant (R175, log entry 23). -/
def ownData (s : State) (r : OwnRequest) : List BeatOut :=
  match r.src with
  | .immediateResult => [.full s.attach.immediate.record]
  | .completionResult => [.full s.attach.completion.record]
  | .fetch => r.data
  | .anchorResult => r.data
  | .record => r.data
  | .status => r.data
  | .copy => r.data

/-- An own read's address is granted (R164). -/
def grantOwnRead (s : State) (r : OwnRequest) : State :=
  let p := s.path
  let a := incrBurst Config.ownId r.addr r.len
  (s.setPath
    { p with
      own := dropFirst (fun e => e.src == r.src) p.own
      downR := p.downR ++ [{ owner := .own, tag := 0, a := a, unreturned := r.len }]
      countR := 0 }).emit [.downReadAddress a]

/-- An own write's address is granted, and its data follows that of the writes granted before it (R164). -/
def grantOwnWrite (s : State) (r : OwnRequest) : State :=
  let p := s.path
  let data := s.ownData r
  let a := incrBurst Config.ownId (s.ownAddress r) data.length
  ((s.setPath
    { p with
      own := dropFirst (fun e => e.src == r.src) p.own
      downW := p.downW ++
        [{ owner := .own r.src, tag := 0, upId := Config.ownId, a := a, unsent := data.length, buffer := data }]
      countW := 0 }).emit [.downWriteAddress a]).drain

end State

/-- OWN_REQUEST_GRANT: when no forwarded request of the channel is ready, and in any case at a count of 8 (R164). -/
def execOwnRequestGrant (ch : Channel) (s : State) : Result :=
  match s.path.nextOwn ch with
  | none => stays s
  | some r =>
    if s.ownFirst ch = true ∨ s.forwardedReady ch = false then
      finish s (match ch with
        | .write => (s.quiet).grantOwnWrite r
        | .read => (s.quiet).grantOwnRead r)
    else stays s

/-! ## Answers -/

namespace State

/-- A counted response: the gap flag on an error, the count lowered, and the frame completed at a full fill point with
no write outstanding (R11, R12, R35). -/
def countResponse (s : State) (v : Side) (i : Nat) (n : BitVec 32) (error : Bool) : State :=
  match (s.view v).fillingWith i n with
  | none => s
  | some f =>
    let f := { f with gap := f.gap || error, writes := f.writes - 1 }
    let s := s.setView v ((s.view v).modifySlot i fun sl => { sl with frame := some f })
    if f.fillPoint = (s.geometry v).rawBytes ∧ f.writes = 0 then s.complete v i f else s

/-- The upstream side of a development write's response (R34). -/
def answerCapture (s : State) (tag : Nat) (r : Resp) : State :=
  let s := s.setPath (s.path.modifyWrite tag fun u => { u with downResp := some r })
  match s.path.writeOf tag with
  | some u => if u.left = 0 then s.answerWrite tag (if u.cut then .slverr else r) else s
  | none => s

/-- The response of a development write (R34, R35, R163). -/
def takeDevResponse (s : State) (v : Side) (d : DownWrite) (i : Nat) (n : BitVec 32) (r : Resp) : State :=
  let s := s.endWrite (viewBusId v)
  let s := if isError r then s.memoryError 0 (viewByte v) d.a.addr else s
  (s.countResponse v i n (isError r)).answerCapture d.tag (upstreamResp (isError r))

end State

/-- DOWNSTREAM_WRITE_RESPONSE (R11, R12, R34, R35). -/
def execDownstreamWriteResponse (v : Side) (r : Resp) (s : State) : Result :=
  guarded (.downstreamWriteResponse v r)
    (match s.path.answeredWrite (viewBusId v) with
      | none => .fault .noTransaction
      | some d =>
        match d.owner with
        | .dev u i n =>
          if u = v then finish s ((s.quiet).takeDevResponse v d i n r) else .fault .noTransaction
        | .plain => .fault .noTransaction
        | .own _ => .fault .noTransaction)

namespace State

/-- The record of a view read, changed. -/
def modifyRecord (s : State) (tag : Nat) (f : ReadRecord → ReadRecord) : State :=
  s.setPath (s.path.modifyRead tag fun u =>
    match u.cls with
    | .view r => { u with cls := .view (f r) }
    | .plain => u
    | .answered => u)

/-- All data of a piece has come back: it is held, and after the last piece the charged slot's count is lowered (R16,
R63, R64). -/
def takePiece (s : State) (v : Side) (d : DownRead) (beats : List RBeat) : State :=
  let error := beats.any fun b => isError b.resp
  let s := s.endRead (viewBusId v)
  let s := if error then s.memoryError 1 (viewByte v) d.a.addr else s
  let s := s.modifyRecord d.tag fun r =>
    { r with outstanding := r.outstanding - 1, held := r.held ++ beats.map RBeat.data, error := r.error || error }
  match (s.path.readOf d.tag).map UpRead.cls with
  | some (.view r) =>
    if r.outstanding = 0 then
      match r.charged with
      | some i => s.setView v ((s.view v).modifySlot i Slot.lowerReads)
      | none => s
    else s
  | _ => s

end State

/-- READ_PIECE_RETURN (R16, R63, R64). -/
def execReadPieceReturn (v : Side) (beats : List RBeat) (s : State) : Result :=
  guarded (.readPieceReturn v beats)
    (match s.path.answeredRead (viewBusId v) with
      | none => .fault .noTransaction
      | some d =>
        if d.owner = .piece v ∧ d.unreturned = beats.length then finish s ((s.quiet).takePiece v d beats)
        else .fault .noTransaction)

namespace State

/-- The response of a plain or control write. A copy of the command record is kept for its handover, before which the
OKAY is not returned (R160); a copy of the anchor record is kept for its examination (R168). EXOKAY keeps neither copy
(DESIGN CHOICE, log entry 5). -/
def takePlainWrite (s : State) (id : BusId) (u : UpWrite) (r : Resp) : State :=
  let s := s.endWrite id
  if r = .okay ∧ u.covers = true then
    match u.cls with
    | .control =>
      if s.attach.state = .attached then
        s.setAttach { s.attach with
          handovers := s.attach.handovers ++ [{ tag := u.tag, record := commandRecord u.copy }] }
      else s.answerWrite u.tag r
    | .plain =>
      let s :=
        if s.attach.state = .transparent then
          s.setAttach { s.attach with anchorCopies := s.attach.anchorCopies ++ [u.copy.setWidth 128] }
        else s
      s.answerWrite u.tag r
    | .capture _ _ _ => s.answerWrite u.tag r
    | .refused _ => s.answerWrite u.tag r
  else s.answerWrite u.tag r

/-- One beat of a plain or control read (R162, R163). -/
def takePlainRead (s : State) (id : BusId) (d : DownRead) (b : RBeat) : State :=
  let s :=
    if d.unreturned ≤ 1 then s.endRead id
    else
      s.setPath
        { s.path with
          downR :=
            match firstIndex (fun e => e.a.id == id) s.path.downR with
            | some i => updateAt s.path.downR i fun e => { e with unreturned := e.unreturned - 1 }
            | none => s.path.downR }
  s.answerRead d.tag [b]

end State

/-- PLAIN_MEMORY_RESPONSE (R160, R162, R163, R168). -/
def execPlainMemoryResponse (ans : PlainAnswer) (s : State) : Result :=
  match ans with
  | .write id r =>
    match s.path.answeredWrite id with
    | none => .fault .noTransaction
    | some d =>
      if d.owner = .plain then
        match s.path.writeOf d.tag with
        | some u => finish s ((s.quiet).takePlainWrite id u r)
        | none => .fault .noTransaction
      else .fault .noTransaction
  | .read id b =>
    match s.path.answeredRead id with
    | none => .fault .noTransaction
    | some d =>
      if d.owner = .plain then finish s ((s.quiet).takePlainRead id d b) else .fault .noTransaction

end Sys2Proof.Machine
end

