-- ==== Sys2Proof/Machine/Reporting.lean ====
section
/-! DEFINITION. The report writer: record writes (R137, R138, R140) and status block writes (R141, R142). -/

namespace Sys2Proof.Machine

/-- RECORD_WRITE_ISSUE (R137). -/
def execRecordWriteIssue (s : State) : Result :=
  match s.report.backlog with
  | [] => stays s
  | i :: _ =>
    if s.attach.state = .attached ∧ s.ringRoom = true ∧ s.report.flight = none ∧ s.report.held = false then
      finish s ((s.quiet).issueRecord i)
    else stays s

namespace State

/-- The record of an entry is complete (R137). -/
def completeRecord (s : State) (i : Nat) : State :=
  let r := s.report
  (s.setReport { r with produce := r.produce + 1, backlog := r.backlog.filter (fun j => j != i), flight := none }).setFault
    i { s.fault i with pending := none, superseded := 0 }

/-- A record write has been answered (R137, R138, R140). An error leaves the writer held after all evidence of the
event, a STORE_FAULT transition of a DISABLED store included (DESIGN CHOICE, log entry 37). -/
def endRecord (s : State) (error : Bool) : State :=
  match s.report.flight with
  | none => s
  | some f =>
    if f.void then s.setReport { s.report with flight := none }
    else if error then s.setReport { s.report with flight := none, held := true }
    else if f.overtaken then s.issueRecord f.entry
    else s.completeRecord f.entry

end State

/-- REPORT_RECORD_WRITE_RESPONSE (R137, R138, R140, R163). -/
def execReportRecordWriteResponse (r : Resp) (s : State) : Result :=
  guarded (.reportRecordWriteResponse r)
    (match s.ownAnswered .record with
      | none => .fault .noTransaction
      | some d => finish s (((s.quiet).endOwnWrite .record d r).endRecord (isError r)))

/-- STATUS_WRITE_ISSUE (R142). -/
def execStatusWriteIssue (s : State) : Result :=
  let w := s.report.status
  if s.attach.state = .attached ∧ w.due = true ∧ w.flight = none ∧ w.suspended = false ∧ w.holdoff = 0 then
    finish s ((s.quiet).issueStatus)
  else stays s

namespace State

/-- A status write has been answered (R140, R142). An error leaves status writes suspended after all evidence of the
event, a STORE_FAULT transition of a DISABLED store included (DESIGN CHOICE, log entry 37). -/
def endStatus (s : State) (error : Bool) : State :=
  let w := s.report.status
  match w.flight with
  | none => s
  | some f =>
    if f.void then s.setReport { s.report with status := { w with flight := none } }
    else if error then s.setReport { s.report with status := { w with flight := none, suspended := true } }
    else s.setReport { s.report with status := { w with flight := none, due := w.changed } }

end State

/-- STATUS_WRITE_RESPONSE (R140, R142, R163). -/
def execStatusWriteResponse (r : Resp) (s : State) : Result :=
  guarded (.statusWriteResponse r)
    (match s.ownAnswered .status with
      | none => .fault .noTransaction
      | some d => finish s (((s.quiet).endOwnWrite .status d r).endStatus (isError r)))

end Sys2Proof.Machine
end

