-- ==== Sys2Proof/Machine/Strobes.lean ====
section
/-! DEFINITION. The capture strobe (R8 to R10, R101, R102) and the display strobe (R13 to R15, R101, R103). -/

namespace Sys2Proof.Machine

/-- CAPTURE_STROBE: the edge is latched, and the view takes it unless it is STOPPED (R5, R8, R101, R102). -/
def execCaptureStrobe (v : Side) (s : State) : Result :=
  let t := s.timebase
  let s' := (s.quiet).setView v { s.view v with captureLatch := { time := t, awaiting := true } }
  finish s (if (s.view v).live then s'.takeCaptureStrobe v t else s')

/-- The display latch at a strobe: DISPLAY_IDLE's fail if no read has been reported since the previous one, then the
edge is latched (R103). -/
def State.latchDisplay (s : State) (v : Side) : State :=
  let t := s.timebase
  let l := (s.view v).displayLatch
  let s := if l.awaiting then s.failView .displayIdle v (detailWord 0 l.time.toNat) none t else s
  s.setView v { s.view v with displayLatch := { time := t, awaiting := true } }

/-- DISPLAY_STROBE: the edge is latched, and the view takes a flip unless it is STOPPED (R5, R13, R101, R103). -/
def execDisplayStrobe (v : Side) (s : State) : Result :=
  let s' := (s.quiet).latchDisplay v
  finish s (if (s.view v).live then s'.flip v s.timebase else s')

end Sys2Proof.Machine
end

