-- ==== Sys2Proof/Machine/Dispatch.lean ====
section
/-! DEFINITION. The dispatch: one arm per row of spec/opcode_table.json, each one call of its meaning. -/

namespace Sys2Proof.Machine

def exec (i : Instr) (s : State) : Host.Outcome State Fault Refusal :=
  match i with
  | .powerOnReset anc1 anc0 => Sys2Proof.Machine.execPowerOnReset anc1 anc0 s
  | .linkReset anc1 anc0 => Sys2Proof.Machine.execLinkReset anc1 anc0 s
  | .timebaseTick => Sys2Proof.Machine.execTimebaseTick s
  | .pwmWrap => Sys2Proof.Machine.execPwmWrap s
  | .captureStrobe v => Sys2Proof.Machine.execCaptureStrobe v s
  | .displayStrobe v => Sys2Proof.Machine.execDisplayStrobe v s
  | .fabricWriteAccept a => Sys2Proof.Machine.execFabricWriteAccept a s
  | .fabricReadAccept a => Sys2Proof.Machine.execFabricReadAccept a s
  | .writeDataBeat data strb => Sys2Proof.Machine.execWriteDataBeat data strb s
  | .captureBeat data strb => Sys2Proof.Machine.execCaptureBeat data strb s
  | .forwardedRequestGrant ch => Sys2Proof.Machine.execForwardedRequestGrant ch s
  | .ownRequestGrant ch => Sys2Proof.Machine.execOwnRequestGrant ch s
  | .downstreamWriteResponse v resp => Sys2Proof.Machine.execDownstreamWriteResponse v resp s
  | .readPieceReturn v beats => Sys2Proof.Machine.execReadPieceReturn v beats s
  | .viewReadRelease id => Sys2Proof.Machine.execViewReadRelease id s
  | .plainMemoryResponse ans => Sys2Proof.Machine.execPlainMemoryResponse ans s
  | .heldResponseRelease ch id => Sys2Proof.Machine.execHeldResponseRelease ch id s
  | .commandHandover => Sys2Proof.Machine.execCommandHandover s
  | .unknownCommandCode code => Sys2Proof.Machine.execUnknownCommandCode code s
  | .applySettings addr => Sys2Proof.Machine.execApplySettings addr s
  | .startView view => Sys2Proof.Machine.execStartView view s
  | .stopView view => Sys2Proof.Machine.execStopView view s
  | .setPan view px py => Sys2Proof.Machine.execSetPan view px py s
  | .pinFrame view => Sys2Proof.Machine.execPinFrame view s
  | .releasePin view => Sys2Proof.Machine.execReleasePin view s
  | .ackReports count => Sys2Proof.Machine.execAckReports count s
  | .clearFault entry => Sys2Proof.Machine.execClearFault entry s
  | .holdMode mode => Sys2Proof.Machine.execHoldMode mode s
  | .copyHistory sector addr => Sys2Proof.Machine.execCopyHistory sector addr s
  | .clearHistory confirmation => Sys2Proof.Machine.execClearHistory confirmation s
  | .detach => Sys2Proof.Machine.execDetach s
  | .anchorRecordWrite => Sys2Proof.Machine.execAnchorRecordWrite s
  | .settingsFetchReturn beats => Sys2Proof.Machine.execSettingsFetchReturn beats s
  | .anchorResultWriteResponse resp => Sys2Proof.Machine.execAnchorResultWriteResponse resp s
  | .resultWriteResponse resp => Sys2Proof.Machine.execResultWriteResponse resp s
  | .recordWriteIssue => Sys2Proof.Machine.execRecordWriteIssue s
  | .reportRecordWriteResponse resp => Sys2Proof.Machine.execReportRecordWriteResponse resp s
  | .statusWriteIssue => Sys2Proof.Machine.execStatusWriteIssue s
  | .statusWriteResponse resp => Sys2Proof.Machine.execStatusWriteResponse resp s
  | .storeRequestServe => Sys2Proof.Machine.execStoreRequestServe s
  | .recordProgramDone ok => Sys2Proof.Machine.execRecordProgramDone ok s
  | .headerProgramDone ok => Sys2Proof.Machine.execHeaderProgramDone ok s
  | .eraseStart => Sys2Proof.Machine.execEraseStart s
  | .eraseSuspendEffect => Sys2Proof.Machine.execEraseSuspendEffect s
  | .eraseDone ok => Sys2Proof.Machine.execEraseDone ok s
  | .scanDone => Sys2Proof.Machine.execScanDone s
  | .historyCopyReadDone => Sys2Proof.Machine.execHistoryCopyReadDone s
  | .historyCopyWriteResponse resp => Sys2Proof.Machine.execHistoryCopyWriteResponse resp s
  | .pwmClock => Sys2Proof.Machine.execPwmClock s

end Sys2Proof.Machine
end

