-- ==== Sys2Proof/Machine/Step.lean ====
section
/-! DEFINITION. One step: the command at the front of the queue is taken (log entry 2). -/

namespace Sys2Proof.Machine

namespace State

/-- `s` with another queue of waiting commands. -/
def setPending (s : State) (q : List Instr) : State := { s with pending := q }

/-- `s` with the command that a word spells at the front of its queue (log entry 3). -/
def withFetchWord (s : State) (nbits w : Nat) : State :=
  match Sys2Proof.decodeTableWord nbits w with
  | some i => s.setPending (i :: s.pending)
  | none => s

end State

/-- The command at the front of the queue is run with the queue's rest; on an empty queue the part idles. -/
def step (s : State) : Host.Outcome State Fault Refusal :=
  match s.pending with
  | [] => .next s
  | c :: rest => exec c (s.setPending rest)

end Sys2Proof.Machine
end

