-- ==== Sys2Proof/Safety.lean ====
section
/-! DEFINITION. What the statements speak of: the parts of the state that a command leaves alone, the marking of the
status block, and the invariants that every step keeps. -/

namespace Sys2Proof.Machine

/-! ## What a command leaves alone -/

/-- The parts of the state. The status block writer stands apart from the rest of the report writer, because any command
that changes a field of the status block marks a write due (R141). What the ports carry out is no part: every command
writes it anew. -/
inductive Part where
  | pending
  | timebase
  | viewLeft
  | viewRight
  | ladder
  | pwm
  | faults
  | path
  | attach
  | report
  | statusWriter
  | history
  | freeValues
deriving DecidableEq, Repr

/-- A part is the same in two states; of the status block writer, all but its due and changed marks. -/
def Part.same (s t : State) : Part → Prop
  | .pending => t.pending = s.pending
  | .timebase => t.timebase = s.timebase
  | .viewLeft => t.views.left = s.views.left
  | .viewRight => t.views.right = s.views.right
  | .ladder => t.ladder = s.ladder
  | .pwm => t.pwm = s.pwm
  | .faults => t.faults = s.faults
  | .path => t.path = s.path
  | .attach => t.attach = s.attach
  | .report =>
    t.report.backlog = s.report.backlog ∧ t.report.produce = s.report.produce ∧ t.report.consume = s.report.consume ∧
      t.report.flight = s.report.flight ∧ t.report.held = s.report.held
  | .statusWriter =>
    t.report.status.flight = s.report.status.flight ∧ t.report.status.suspended = s.report.status.suspended ∧
      t.report.status.holdoff = s.report.status.holdoff ∧ t.report.status.writeCount = s.report.status.writeCount
  | .history => t.history = s.history
  | .freeValues => t.freeIndex = s.freeIndex

/-- Every part but the listed ones is the same. -/
def OnlyChanges (changed : List Part) (s t : State) : Prop := ∀ p, p ∉ changed → p.same s t

/-- The part that holds a view. -/
def viewPart : Side → Part
  | .left => .viewLeft
  | .right => .viewRight

/-- A status write is marked due if a status block field has changed (R141); otherwise the marks are as before. -/
def MarksStatus (s t : State) : Prop :=
  if t.status = s.status then
    t.report.status.due = s.report.status.due ∧ t.report.status.changed = s.report.status.changed
  else t.report.status.due = true ∧ t.report.status.changed = true

/-- A command answers a next state with a property. -/
def Completes (i : Instr) (s : State) (p : State → Prop) : Prop := ∃ t, exec i s = .next t ∧ p t

/-- Nothing but the port record changes: an event that does not take place now (log entry 1). -/
def Stays (i : Instr) (s : State) : Prop := exec i s = .next s.quiet

/-! ## Commands of the command record -/

/-- The command in hand is `i`, handed over as `h` (R174). -/
def InHand (i : Instr) (s : State) (h : Handover) : Prop := s.attach.inHand = some h ∧ h.record.command = i

/-- The immediate result of the command in hand replaces the image and is due, and its write waits for the unit or
stands in the own-traffic queue, which has at most grown; nothing else of the unit changes (R175). -/
def Posts (h : Handover) (code : ResultCode) (s t : State) : Prop :=
  t.attach =
      { s.attach with
        inHand := none
        immediate := { issue := h.record.issue, code := code, detail := 0, due := true }
        wanted := t.attach.wanted
        request := t.attach.request } ∧
    s.path.own <+: t.path.own ∧ (.immediate ∈ t.attach.wanted ∨ t.ownQueued .immediateResult = true)

/-- Of the path unit, at most the own-traffic queue changes. -/
def OwnQueueOnly (s t : State) : Prop := t.path = { s.path with own := t.path.own }

/-- What one piece of evidence makes of an entry, with what it carries recorded, and the transition it reports: the
tables of R120 and R121 for a counted kind, R122 for an event kind (R119). -/
def judged (e : FaultEntry) (k : Counts) (i : Nat) (ev : Evidence) : FaultEntry × Option Transition :=
  let confirm := if i < 2 then k.freeze else if i < 4 then k.safety else k.warning
  let heal := if i < 4 then k.safetyHeal else k.warningHeal
  match ev with
  | .pass =>
    if isEvent i then (e, none)
    else
      match e.state with
      | .clear => (e, none)
      | .suspect =>
        ({ e with state := if e.debounce ≤ 1 then .clear else .suspect, debounce := e.debounce - 1 }, none)
      | .active =>
        if e.heal + 1 < heal then ({ e with heal := e.heal + 1 }, none)
        else if isSafety i then ({ e with state := .recovered, heal := 0 }, some .toRecovered)
        else ({ e with state := .clear, heal := 0 }, some .toClear)
      | .recovered => (e, none)
  | .fail detail sequence time =>
    let r : FaultEntry :=
      { e with
        lastSeen := some time
        firstSeen := some (e.firstSeen.getD time)
        detail := some detail
        lastSequence := sequence.or e.lastSequence }
    let counted : FaultEntry := { r with occurrences := min 65535 (e.occurrences + 1) }
    let active : FaultEntry := { counted with state := .active, debounce := 0, heal := 0 }
    if isEvent i then (counted, some .occurred)
    else
      match e.state with
      | .clear => if confirm ≤ 1 then (active, some .toActive) else ({ r with state := .suspect, debounce := 1 }, none)
      | .suspect =>
        if confirm ≤ e.debounce + 1 then (active, some .toActive) else ({ r with debounce := e.debounce + 1 }, none)
      | .active => ({ r with heal := 0 }, none)
      | .recovered => (active, some .toActive)

/-- A transition of an entry that places it in the store queue and confirms it in the drive cycle (R125). -/
def confirms (i : Nat) (tr : Transition) : Bool := isStored i && (tr == .toActive || tr == .occurred)

/-- An entry after one piece of evidence, a transition reported (R119 to R122, R124, R125). -/
def afterEvidence (e : FaultEntry) (k : Counts) (i : Nat) (ev : Evidence) : FaultEntry :=
  match judged e k i ev with
  | (x, none) => x
  | (x, some tr) =>
    { x with
      pending := some tr
      superseded := if e.pending.isSome then min 255 (e.superseded + 1) else 0
      confirmed := e.confirmed || confirms i tr }

/-- The view of an entry is STOPPED, so that evidence for it is not given (R118). -/
def isMuted (i : Nat) (s : State) : Prop := ∃ v, entrySide i = some v ∧ (s.view v).state = .stopped

/-- The entry is left as one piece of evidence leaves it, if its view takes evidence at all. -/
def Gives (i : Nat) (ev : Evidence) (s t : State) : Prop :=
  (isMuted i s → t.fault i = s.fault i) ∧ (¬isMuted i s → t.fault i = afterEvidence (s.fault i) s.counts i ev)

/-- A piece of evidence or none. -/
def GivesIf (c : Prop) (i : Nat) (ev : Evidence) (s t : State) : Prop :=
  (c → Gives i ev s t) ∧ (¬c → t.fault i = s.fault i)

/-! ## The array of the history store -/

/-- The program or the reading that serves a request (R145, R146, R151). -/
def servedAs (s : State) : ArrayRequest → Option ArrayOp
  | .record => s.history.queue.head?.map fun i =>
      .record i (historyContent s.history.nextRecord s.attach.driveCycle i (s.fault i)) 80
  | .header i m => some (.header i m 80)
  | .copy i => some (.copy i)

/-- The store when a new request is the last of those that wait for the array: the first of them is served at once where
the array is free, and a running erase is asked to suspend, if fewer than 16 suspensions have been made of it and no
CLEAR_HISTORY is in hand (R148, R152, log entry 27). -/
def afterRequest (s : State) (waiting : List ArrayRequest) : History :=
  let h := s.history
  if h.scanning = true ∨ h.op.isSome = true then { h with waiting := waiting }
  else
    match h.erase with
    | none => { h with waiting := waiting.tail, op := waiting.head?.bind (servedAs s) }
    | some e =>
      { h with
        waiting := waiting
        erase := some (if e.phase = .running ∧ e.suspensions < 16 ∧ h.clearing = none then
          { e with phase := .requested, late := decide (e.remaining = 0) } else e) }

/-- What the array goes on to when a program or a reading has ended, with these requests waiting and no CLEAR_HISTORY in
hand; `need`: the new active sector that is needed. An erase frozen under it resumes with 500 µs added, a store request
that can be served then waits again, and so does the ACTIVE marker of the next ERASED sector after the one named. With
no erase the first request is served; with one, its suspension is requested if any waits (R146, R148, log entry 27). -/
def GoesOn (s : State) (waiting : List ArrayRequest) (need : Option (BitVec 32 × Nat)) (t : State) : Prop :=
  let erased (j : Nat) : Prop := j < 8 ∧ t.history.state j = .erased
  let again : List ArrayRequest :=
    if s.history.erase.isSome = true ∧ t.history.queue ≠ [] ∧ t.history.activeOpen = true ∧
        t.history.nextPosition ≤ 63 ∧ ArrayRequest.record ∉ waiting then [.record] else []
  ∃ added : List ArrayRequest,
    let all := waiting ++ again ++ added
    (need = none ∨ (∃ j n, ArrayRequest.header j (.active n) ∈ waiting) → added = []) ∧
      (∀ n k, need = some (n, k) → (∀ j n', ArrayRequest.header j (.active n') ∉ waiting) →
        ((∀ j, ¬erased j) → added = []) ∧
          ∀ j, erased j → (∀ j', erased j' → (j + 7 - k % 8) % 8 ≤ (j' + 7 - k % 8) % 8) →
            added = [.header j (.active n)]) ∧
      match s.history.erase with
      | none => t.history.erase = none ∧ t.history.waiting = all.tail ∧ t.history.op = all.head?.bind (servedAs t)
      | some e =>
        let asks : Prop := all ≠ [] ∧ e.suspensions < 16
        t.history.op = none ∧ t.history.waiting = all ∧
          t.history.erase =
            some
              { e with
                remaining := e.remaining + 500
                phase := if asks then .requested else .running
                late := if asks then false else e.late }

/-- A CLEAR_HISTORY that waited for a program or a reading begins: the erase list and the waiting requests are dropped, an
erase runs on to its end, and with none in progress and no sector left to erase the lowest ERASED sector gets the ACTIVE
marker with serial 1 (R152, log entry 21). -/
def ClearBegins (s t : State) : Prop :=
  let h := s.history
  let left : Prop := ∃ j, j < 8 ∧ t.history.state j ≠ .erased ∧ t.history.state j ≠ .retired
  t.history.eraseList = [] ∧ t.history.activeOpen = false ∧
    t.history.erase =
      (h.erase.map fun e =>
        { e with
          phase := .running
          remaining := if e.phase = .frozen then e.remaining + 500 else e.remaining }) ∧
    (left ∨ h.erase.isSome = true →
      t.history.clearing = some .erasing ∧ t.history.waiting = [] ∧ t.history.op = none) ∧
    (¬left → h.erase = none →
      t.history.clearing = some .marking ∧
        ∀ j, j < 8 → t.history.state j = .erased → (∀ k, k < j → t.history.state k ≠ .erased) →
          t.history.op = some (.header j (.active 1) 80))

/-! ## What goes to memory of a capture burst -/

/-- The data of the development write with a tag, one beat more (R31). -/
def withBeat (tag : Nat) (b : BeatOut) (d : DownWrite) : DownWrite :=
  match d.owner with
  | .dev _ _ _ => if d.tag = tag then { d with buffer := d.buffer ++ [b] } else d
  | _ => d

/-- The memory beat that is whole, if there is one, joins the data of its write and is sent with its strobes: at once,
where the write holds the data channel and all its earlier data has been sent (R31, R164). `sent` is what the port
carries out for it. -/
def SendsBeat (tag : Nat) (beat : Option BeatOut) (s t : State) (sent : List PortEvent) : Prop :=
  match beat with
  | none => t.path.readyW = s.path.readyW ∧ t.path.downW = s.path.downW ∧ sent = []
  | some b =>
    t.path.readyW = s.path.readyW.map (withBeat tag b) ∧
      (t.path.downW, sent) = drainWrites (s.path.downW.map (withBeat tag b)) ∧
      ∀ d, s.path.dataHead = some d → withBeat tag b d ≠ d → d.buffer = [] →
        ∃ rest, sent = .downWriteBeat d.a.id b :: rest

/-- The memory beat that the beat at offset `o` of a run ending at `last` makes whole, and the half kept for the next:
`bytes` are the eight developed bytes of the beat, `none` a half with clear strobes (R31, R32). -/
def memoryBeat (half : Option (Option (BitVec 64))) (o last : Nat) (bytes : Option (BitVec 64)) :
    Option BeatOut × Option (Option (BitVec 64)) :=
  if o / 16 % 2 = 1 then (some (.halves half.join bytes), none)
  else if o = last then (some (.halves bytes none), none)
  else (none, some bytes)

/-- What the taking of one beat of the capture burst `u` leaves of the outstanding writes, after `sent`: one beat less to
take, and after the last one the response of R34, returned in its ID's order (R162): SLVERR of a cut burst, OKAY of an
empty run, and otherwise the one of its memory write, which may still be owed. -/
def TakesBeat (u : UpWrite) (cut run : Bool) (s t : State) (sent : List PortEvent) : Prop :=
  let taken := s.path.writes.map fun w => if w.tag = u.tag then { w with left := w.left - 1 } else w
  let ended := s.path.writes.map fun w => if w.tag = u.tag then { w with left := w.left - 1, cut := cut } else w
  let answers (r : Resp) : Prop :=
    if s.path.firstWrite u.a.id = some u then
      t.out = sent ++ [.upResponse u.a.id r] ∧ t.path.writes = s.path.writes.filter fun w => w.tag != u.tag
    else t.out = sent ∧ t.path.writes = ended.map fun w => if w.tag = u.tag then { w with ready := some r } else w
  if u.left ≠ 1 then t.out = sent ∧ t.path.writes = taken
  else if run = false then answers (if cut then .slverr else .okay)
  else
    match u.downResp with
    | some r => answers (if cut then .slverr else r)
    | none => t.out = sent ∧ t.path.writes = ended

/-- The command in hand is answered with a result and changes nothing else. -/
def OnlyPosts (i : Instr) (h : Handover) (code : ResultCode) (s : State) : Prop :=
  Completes i s fun t => Posts h code s t ∧ OwnQueueOnly s t ∧ OnlyChanges [.attach, .path] s t ∧ MarksStatus s t

/-- A fail or an occurrence has been recorded in an entry at a time (R119). -/
def Records (i : Nat) (detail : BitVec 56) (time : Time) (s t : State) : Prop :=
  (t.fault i).detail = some detail ∧ (t.fault i).lastSeen = some time ∧
    (t.fault i).firstSeen = some ((s.fault i).firstSeen.getD time)

/-- An event entry has occurred once more (R119, R122). -/
def Occurs (i : Nat) (detail : BitVec 56) (s t : State) : Prop :=
  Records i detail s.timebase s t ∧ (t.fault i).occurrences = min 65535 ((s.fault i).occurrences + 1)

/-- Of the attachment unit, at most the settings in force of one view change: the parts taken are those given, where there
are any, and everything else stays (R173). -/
def TakesParts (v : Side) (dev : Option DevFields) (flip : Option FlipFields) (s t : State) : Prop :=
  t.attach =
    { s.attach with
      current := s.attach.current.map fun c =>
        { c with
          views := c.views.set v
            { c.views.get v with
              dev := dev.getD (c.views.get v).dev
              flip := flip.getD (c.views.get v).flip } } }

/-- Of the report writer and the history store, only what evidence reaches changes: the backlog, the mark that overtakes
a record in flight, the releases of a held writer and of suspended status writes, and the store queue (R124, R125,
R138, R142). -/
def OnlyEvidence (s t : State) : Prop :=
  t.history = { s.history with queue := t.history.queue } ∧ t.report.produce = s.report.produce ∧
    t.report.consume = s.report.consume ∧ t.report.flight.map RecordFlight.entry = s.report.flight.map RecordFlight.entry ∧
    t.report.status.flight = s.report.status.flight ∧ t.report.status.holdoff = s.report.status.holdoff ∧
    t.report.status.writeCount = s.report.status.writeCount

/-- The rows of the command record's commands, its unknown codes among them (R174). -/
def isCommand : Instr → Bool
  | .unknownCommandCode _ => true
  | .applySettings _ => true
  | .startView _ => true
  | .stopView _ => true
  | .setPan _ _ _ => true
  | .pinFrame _ => true
  | .releasePin _ => true
  | .ackReports _ => true
  | .clearFault _ => true
  | .holdMode _ => true
  | .copyHistory _ _ => true
  | .clearHistory _ => true
  | .detach => true
  | _ => false

/-- The fabric write with a tag is answered: at once if it is the oldest of its upstream ID, otherwise in its turn
(R162). -/
def AnswersWrite (tag : Nat) (r : Resp) (s t : State) : Prop :=
  match s.path.writeOf tag with
  | none => t.out = [] ∧ t.path.writes = s.path.writes
  | some u =>
    if s.path.firstWrite u.a.id = some u then
      t.out = [.upResponse u.a.id r] ∧ t.path.writes = s.path.writes.filter fun w => w.tag != tag
    else t.out = [] ∧ t.path.writes = s.path.writes.map fun w => if w.tag = tag then { w with ready := some r } else w

/-- The element is the first of a list that meets a condition. -/
def FirstOf {α : Type} (p : α → Prop) (l : List α) (x : α) : Prop :=
  ∃ before after, l = before ++ x :: after ∧ p x ∧ ∀ y ∈ before, ¬p y

/-- Of the path unit, at most the outstanding writes change. -/
def WritesOnly (s t : State) : Prop := t.path = { s.path with writes := t.path.writes }

/-- The command in hand is accepted as the command in flight (R174, R175). -/
def Accepts (op : LongOperation) (h : Handover) (s t : State) : Prop :=
  Posts h .accepted (s.setAttach { s.attach with inFlight := some (op, h.record.issue) }) t

/-- What a slot becomes when the frame shown in it is no longer shown (R13, R18). -/
def slotAfterShown (sl : Slot) : Slot :=
  if sl.pinRequest then { sl with state := .pinned, pinRequest := false }
  else if sl.reads ≠ 0 then { sl with state := .draining }
  else { sl with state := .free, pinRequest := false, frame := none }

/-- What STOP_VIEW and DETACH leave of a view that was not STOPPED, but for the settings it takes (R18, R177). -/
def StopLeaves (x y : View) : Prop :=
  y =
      { x with
        state := .stopped
        slots := y.slots
        capture := .none
        shown := none
        levelValid := false
        glare := []
        staged := 0
        inverted := y.inverted
        pendingDev := none
        pendingFlip := none } ∧
    y.slots.length = x.slots.length ∧
    ∀ (j : Nat) (sl : Slot), x.slots[j]? = some sl →
      y.slots[j]? = some
        (match sl.state with
        | .filling => { sl with state := .free, pinRequest := false, frame := none }
        | .ready => { sl with state := .free, pinRequest := false, frame := none }
        | .shown => slotAfterShown sl
        | _ => sl)

/-- The row answers a transaction of the memory port, and no transaction of its kind is outstanding to be answered: the
oldest one of its ID, a write with all its data sent, is missing, of another owner, or asked for another length (log
entry 1). -/
def NothingAwaits (s : State) : Instr → Prop
  | .downstreamWriteResponse v _ =>
    ∀ d, s.path.answeredWrite (viewBusId v) = some d → ∀ i n, d.owner ≠ .dev v i n
  | .readPieceReturn v beats =>
    ∀ d, s.path.answeredRead (viewBusId v) = some d → d.owner ≠ .piece v ∨ d.unreturned ≠ beats.length
  | .plainMemoryResponse (.write id _) =>
    ∀ d, s.path.answeredWrite id = some d → d.owner ≠ .plain ∨ s.path.writeOf d.tag = none
  | .plainMemoryResponse (.read id _) => ∀ d, s.path.answeredRead id = some d → d.owner ≠ .plain
  | .settingsFetchReturn beats =>
    ∀ d, s.path.answeredRead 0x3D = some d → d.owner ≠ .own ∨ d.unreturned ≠ beats.length
  | .anchorResultWriteResponse _ => s.ownAnswered .anchorResult = none
  | .resultWriteResponse _ => s.ownAnswered .immediateResult = none ∧ s.ownAnswered .completionResult = none
  | .reportRecordWriteResponse _ => s.ownAnswered .record = none
  | .statusWriteResponse _ => s.ownAnswered .status = none
  | .historyCopyWriteResponse _ => s.ownAnswered .copy = none
  | _ => False

/-- What both resets leave outside the history store. -/
def ResetLeaves (anc1 anc0 : Bool) (s t : State) : Prop :=
  (∀ v, let x := t.view v
    x.state = .stopped ∧ x.nextSequence = some 1 ∧ x.capture = .none ∧ x.shown = none ∧ x.startTime = 0 ∧
      x.lastSignature = none ∧ x.levelValid = false ∧ x.pan = (0, 0) ∧ x.panTarget = (0, 0) ∧ x.slots = [] ∧
      x.burst = none ∧ x.captureLatch = ⟨0, false⟩ ∧ x.displayLatch = ⟨0, false⟩ ∧ x.glare = [] ∧ x.staged = 0 ∧
      x.working = 0 ∧ x.inverted = false ∧ x.pendingDev = none ∧ x.pendingFlip = none ∧ t.safeLine v = true ∧
      t.backlightHigh v = false) ∧
    t.timebase = 0 ∧ t.ladder = { mode := .day, hold := none, pending := none } ∧
    t.pwm.counting = false ∧ t.pwm.counter = 0 ∧ (t.pwm.workingD, t.pwm.workingP) = (0, 62) ∧
    (t.pwm.stagedD, t.pwm.stagedP) = (0, 62) ∧ t.faults.length = 26 ∧
    (∀ i, i < 26 → (t.fault i).state = .clear ∧ (t.fault i).debounce = 0 ∧ (t.fault i).heal = 0 ∧
      (t.fault i).occurrences = 0 ∧ (t.fault i).firstSeen = none ∧ (t.fault i).lastSeen = none ∧
      (t.fault i).lastSequence = none ∧ (t.fault i).detail = none ∧ (t.fault i).pending = none ∧
      (t.fault i).superseded = 0 ∧ (t.fault i).confirmed = false ∧ (t.fault i).stored = false) ∧
    t.path.writes = [] ∧ t.path.reads = [] ∧ t.path.readyW = [] ∧ t.path.readyR = [] ∧ t.path.downW = [] ∧
    t.path.downR = [] ∧ t.path.own = [] ∧ t.path.countW = 0 ∧ t.path.countR = 0 ∧
    t.attach.state = .transparent ∧
    t.attach.anchor.toNat =
      (match anc1, anc0 with
      | false, false => 0x07FF00000
      | false, true => 0x0FFF00000
      | true, false => 0x1FFF00000
      | true, true => 0x3FFF00000) ∧
    t.attach.current = none ∧ t.attach.inFlight = none ∧ t.attach.lastIssue = 0 ∧ t.attach.immediate.due = false ∧
    t.attach.completion.due = false ∧ t.attach.driveCycle = 0 ∧ t.attach.wanted = [] ∧ t.attach.request = none ∧
    t.attach.handovers = [] ∧ t.attach.inHand = none ∧ t.attach.anchorCopies = [] ∧ t.attach.heldCycle = 0 ∧
    t.attention = false ∧
    t.report.backlog = [] ∧ t.report.produce = 0 ∧ t.report.consume = 0 ∧ t.report.flight = none ∧
    t.report.held = false ∧ t.report.status.due = false ∧ t.report.status.flight = none ∧
    t.report.status.suspended = false ∧ t.report.status.holdoff = 0 ∧ t.report.status.writeCount = 0 ∧
    t.history.queue = [] ∧ t.history.copyFlight = none ∧ t.history.copyData = none ∧ t.out = [] ∧
    t.pending = s.pending

/-! ## The settings block (chapters 11 and 12) -/

/-- The structural field of an index breaks its condition of R171, read from the bytes where R180 places them; log entry
18 says which index a condition over several fields names. -/
def BlockBreaks (b : List Beat) (i : Nat) : Prop :=
  let kind (e : Nat) : Nat := field b (8 + 16 * e) 1
  let side (e : Nat) : Nat := field b (9 + 16 * e) 1
  let exponent (e : Nat) : Nat := field b (12 + 16 * e) 1
  let base (e : Nat) : Nat := field b (16 + 16 * e) 8 % 2 ^ 36
  let viewEntry (e : Nat) : Prop := kind e = 1 ∨ kind e = 2
  let start (v : Side) : Nat := match v with
    | .left => 256
    | .right => 640
  let w (v : Side) : Nat := field b (start v) 2
  let h (v : Side) : Nat := field b (start v + 2) 2
  let vw (v : Side) : Nat := field b (start v + 4) 2
  let vh (v : Side) : Nat := field b (start v + 6) 2
  let count (v : Side) : Nat := field b (start v + 8) 1
  let slot (v : Side) (j : Nat) : Nat := field b (start v + 16 + 8 * j) 8 % 2 ^ 36
  let inSlot (v : Side) (j a : Nat) : Prop := slot v j ≤ a ∧ a < slot v j + w v * h v * 2
  let report : Nat := field b 136 8 % 2 ^ 36
  let inReport (a : Nat) : Prop := report ≤ a ∧ a < report + 4096
  let inAperture (a : Nat) : Prop :=
    ∃ e, e < 8 ∧ (viewEntry e ∧ side e ≤ 1 ∨ kind e = 3) ∧ base e ≤ a ∧ a < base e + 2 ^ exponent e
  let level (k : Nat) : Nat := field b (144 + k) 1
  let entry (e : Nat) : Prop :=
    kind e ≠ 0 ∧
      (4 < kind e ∨ (viewEntry e ∧ 1 < side e) ∨ exponent e < 12 ∨ 34 < exponent e ∨ base e % 2 ^ exponent e ≠ 0 ∨
        (kind e = 1 ∧ (63 < field b (10 + 16 * e) 1 ∨ 63 < field b (11 + 16 * e) 1)) ∨
        ∃ v : Side, side e = sideIndex v ∧
          ((kind e = 1 ∧ 2 ^ exponent e < w v * h v * 4) ∨ (kind e = 2 ∧ 2 ^ exponent e < vw v * vh v * 2)))
  let table : Prop :=
    (∀ e, e < 8 → kind e ≠ 3) ∨
      ∃ e e', e < e' ∧ e' < 8 ∧ kind e = kind e' ∧ (kind e = 3 ∨ (viewEntry e ∧ side e = side e' ∧ side e ≤ 1))
  let slotBreaks (v : Side) (j : Nat) : Prop :=
    j < count v ∧
      (slot v j % 4096 ≠ 0 ∨ 2 ^ 36 < slot v j + w v * h v * 2 ∨
        ∃ a, inSlot v j a ∧
          (inAperture a ∨ inReport a ∨ ∃ (u : Side) (k : Nat), k < min 4 (count u) ∧ (u ≠ v ∨ k ≠ j) ∧ inSlot u k a))
  let view (v : Side) (k : Nat) : Prop :=
    (k = 0 ∧ (w v < 256 ∨ 2048 < w v ∨ w v % 32 ≠ 0)) ∨ (k = 1 ∧ (h v < 128 ∨ 1280 < h v ∨ h v % 8 ≠ 0)) ∨
      (k = 2 ∧ (vw v < 256 ∨ w v < vw v ∨ vw v % 32 ≠ 0)) ∨ (k = 3 ∧ (vh v < 128 ∨ h v < vh v ∨ vh v % 8 ≠ 0)) ∨
      (k = 4 ∧ count v ≠ 3 ∧ count v ≠ 4) ∨ ∃ j, j < 4 ∧ k = 5 + j ∧ slotBreaks v j
  (i = 0 ∧ field b 0 1 ≠ 3) ∨ (∃ e, e < 8 ∧ i = 1 + e ∧ entry e) ∨ (i = 1 ∧ table) ∨
    (i = 9 ∧ (report % 4096 ≠ 0 ∨ ∃ a, inReport a ∧ inAperture a)) ∨ (i = 10 ∧ level 1 ≤ level 0) ∨
    (i = 11 ∧ level 2 < level 1) ∨ (i = 12 ∧ level 3 ≤ level 2) ∨ (i = 13 ∧ level 4 < level 3) ∨
    (∃ k, i = 32 + k ∧ view .left k) ∨ ∃ k, i = 80 + k ∧ view .right k

/-- The settings taken from a block, each field from its place (R180), each tuning field brought into the range its
chapter states, and the indices of the fields that were changed by that, lowest first (R36, R51, R67, R70, R75, R85, R108,
R109, R111, R123, R172). -/
def BlockGives (b : List Beat) (c : Settings) (clamped : List Nat) : Prop :=
  let tuned (i raw value taken : Nat) : Prop := taken = value ∧ (i ∈ clamped ↔ raw ≠ value)
  let row (i off len lo hi taken : Nat) : Prop := tuned i (field b off len) (max lo (min hi (field b off len))) taken
  clamped.Pairwise (fun x y => x < y) ∧
    (∀ i ∈ clamped, i ∈ [15, 16, 17, 18, 19, 20, 21, 24, 25] ∨
      ∃ n ∈ [32, 80], ∃ k ∈ [10, 11, 12, 13, 17, 18, 19, 20, 21, 22, 23, 24, 31, 32, 35, 36, 37, 38], i = n + k) ∧
    c.table.length = 8 ∧
    (∀ e, e < 8 →
      let o := 8 + 16 * e
      let region (k : RegionKind) : Option Region :=
        some { kind := k, base := BitVec.ofNat 36 (field b (o + 8) 8), exponent := field b (o + 4) 1 }
      c.table[e]? = some
        (match field b o 1, sideOf (blockByte b (o + 1)) with
        | 1, some v =>
          region (.capture v (BitVec.ofNat 6 (field b (o + 2) 1)) (BitVec.ofNat 6 (field b (o + 3) 1)))
        | 2, some v => region (.view v)
        | 3, _ => region .control
        | 4, _ => region .guard
        | _, _ => none)) ∧
    c.reportArea = BitVec.ofNat 36 (field b 136 8) ∧ c.ladder.nightEnter = field b 144 1 ∧
    c.ladder.nightExit = field b 145 1 ∧ c.ladder.duskEnter = field b 146 1 ∧ c.ladder.duskExit = field b 147 1 ∧
    c.ladder.dayForce = field b 148 1 ∧ row 15 152 4 0 60000 c.ladder.dwellDown ∧
    row 16 156 4 0 60000 c.ladder.dwellUp ∧ row 17 160 1 1 15 c.counts.safety ∧ row 18 161 1 1 15 c.counts.warning ∧
    row 19 162 1 2 15 c.counts.freeze ∧ row 20 164 1 1 255 c.counts.safetyHeal ∧
    row 21 165 1 1 255 c.counts.warningHeal ∧ c.attention = flag b 166 ∧ c.lock = flag b 167 ∧
    row 24 168 1 0 7 c.pwmDivider ∧ row 25 170 2 62 65533 c.pwmPeriod ∧
    ∀ v : Side,
      let n : Nat := match v with
        | .left => 32
        | .right => 80
      let o : Nat := match v with
        | .left => 256
        | .right => 640
      let x := c.views.get v
      let k := field b (o + 49) 1
      x.geometry =
          { w := field b o 2, h := field b (o + 2) 2, vw := field b (o + 4) 2, vh := field b (o + 6) 2
            bases := (List.range (min 4 (field b (o + 8) 1))).map fun j => BitVec.ofNat 36 (field b (o + 16 + 8 * j) 8) } ∧
        x.dev.black = field b (o + 48) 1 ∧
        tuned (n + 10) k (if 32 ≤ k then 32 else if 16 ≤ k then 16 else if 8 ≤ k then 8 else 4) x.dev.ratio ∧
        row (n + 11) (o + 50) 2 1024 3839 x.dev.knee ∧ row (n + 12) (o + 52) 1 0 5 x.dev.shift ∧
        row (n + 13) (o + 56) 4 4096 131040 x.dev.glareThreshold ∧ x.flip.pattern.toNat = field b (o + 60) 4 ∧
        x.dev.curveA = (List.range 65).map (fun j => field b (o + 64 + j) 1) ∧
        x.dev.curveB = (List.range 65).map (fun j => field b (o + 129 + j) 1) ∧
        row (n + 17) (o + 194) 1 128 254 x.flip.protect ∧
        tuned (n + 18) (field b (o + 196) 2) (max 8 (min 256 (field b (o + 196) 2)) / 8 * 8) x.flip.panStepX ∧
        row (n + 19) (o + 198) 2 1 256 x.flip.panStepY ∧ row (n + 20) (o + 200) 2 1 4095 x.flip.glareMin ∧
        row (n + 21) (o + 202) 2 0 1024 x.flip.slope ∧ row (n + 22) (o + 204) 2 64 256 x.flip.gainFloor ∧
        row (n + 23) (o + 206) 1 1 64 x.flip.stepDown ∧ row (n + 24) (o + 207) 1 1 64 x.flip.stepUp ∧
        x.flip.dayDuty = field b (o + 208) 2 ∧ x.flip.duskDuty = field b (o + 210) 2 ∧
        x.flip.nightDuty = field b (o + 212) 2 ∧ x.flip.blankDuty = field b (o + 214) 2 ∧
        x.flip.glareTrim = field b (o + 216) 2 ∧ x.flip.dutyMin = field b (o + 218) 2 ∧
        tuned (n + 31) (field b (o + 220) 2) (max (field b (o + 218) 2) (field b (o + 220) 2)) x.flip.dutyMax ∧
        row (n + 32) (o + 222) 2 1 4096 x.flip.blStep ∧ x.flip.inversion = flag b (o + 224) ∧
        x.limits.darkLevel = field b (o + 225) 1 ∧ row (n + 35) (o + 226) 1 1 128 x.limits.blockedTiles ∧
        row (n + 36) (o + 228) 4 10000 1000000 x.limits.staleLimit ∧
        row (n + 37) (o + 232) 4 100000 10000000 x.limits.startLimit ∧
        row (n + 38) (o + 236) 4 1000 1000000 x.limits.latencyLimit

/-! ## Records in memory (chapter 12) -/

/-- A record is this many beats, and its little-endian fields, each by offset and size, hold these values (R179, R181). -/
def Holds (record : List Beat) (beats : Nat) (fields : List (Nat × Nat × Nat)) : Prop :=
  record.length = beats ∧ ∀ q ∈ fields, field record q.1 q.2.1 = q.2.2

/-! ## Invariants -/

/-- Every outstanding burst of a direction has a tag of its own, older than the next (MODEL). -/
def TagsOk (s : State) : Prop :=
  ((s.path.writes.map UpWrite.tag).Nodup ∧ ∀ u ∈ s.path.writes, u.tag < s.path.nextTag) ∧
    ((s.path.reads.map UpRead.tag).Nodup ∧ ∀ u ∈ s.path.reads, u.tag < s.path.nextTag)

/-- At most 16 bursts are outstanding in each direction (R161). -/
def OutstandingOk (s : State) : Prop :=
  s.path.writes.length ≤ Config.maxOutstanding ∧ s.path.reads.length ≤ Config.maxOutstanding

/-- The entries of the fault table hold only what their kind can (R116, R117, R122). -/
def FaultEntryOk (i : Nat) (e : FaultEntry) : Prop :=
  (isEvent i = true → e.state = .clear) ∧ (e.state = .recovered → isSafety i = true) ∧
    (e.debounce ≠ 0 → e.state = .suspect) ∧ (e.heal ≠ 0 → e.state = .active) ∧ e.occurrences ≤ 65535 ∧
    e.superseded ≤ 255

/-- The fault table has its 26 entries, each as its kind can be (R116). -/
def FaultsOk (s : State) : Prop :=
  s.faults.length = Config.faultCount ∧ ∀ i, FaultEntryOk i (s.fault i)

/-- The backlog holds every unreported entry, once (R124, R135). -/
def BacklogOk (s : State) : Prop :=
  s.faults.length = Config.faultCount ∧ s.report.backlog.Nodup ∧
    (∀ i, i ∈ s.report.backlog ↔ (s.fault i).pending.isSome = true)

/-- Unacknowledged records (R136). -/
def unacknowledged (s : State) : Nat := (s.report.produce - s.report.consume).toNat

/-- The ring never holds more than 64 unacknowledged records, and a record write that can complete has room (R136,
R137). -/
def RingOk (s : State) : Prop :=
  unacknowledged s ≤ Config.ringSize ∧
    ∀ f, s.report.flight = some f → f.void = false → unacknowledged s < Config.ringSize

/-- A view that has left STARTING and is not STOPPED is BLANKED exactly while a SAFETY entry of it is ACTIVE (R6). -/
def BlankingOk (s : State) : Prop :=
  ∀ v, ((s.view v).state = .running → s.safetyActive v = false) ∧ ((s.view v).state = .blanked → s.safetyActive v = true)

/-- While the hold names a mode, the mode is the held mode, and no condition is pending (R73, R80). -/
def HoldOk (s : State) : Prop := ∀ m, s.ladder.hold = some m → s.ladder.mode = m ∧ s.ladder.pending = none

/-- The period counter and its pairs stay in range, and a held counter stands at 0 (R109). -/
def PwmOk (s : State) : Prop :=
  s.pwm.counter ≤ s.pwm.workingP + 1 ∧ (s.pwm.counting = false → s.pwm.counter = 0) ∧
    (62 ≤ s.pwm.workingP ∧ s.pwm.workingP ≤ 65533 ∧ s.pwm.workingD ≤ 7) ∧
    (62 ≤ s.pwm.stagedP ∧ s.pwm.stagedP ≤ 65533 ∧ s.pwm.stagedD ≤ 7)

/-- A glare list holds at most 24 entries, no tile twice (R84, R92). -/
def GlareListOk (l : List GlareEntry) : Prop :=
  l.length ≤ Config.glareCapacity ∧ (l.map GlareEntry.tile).Nodup

/-- The glare lists of both views (R84, R92), and a STOPPED view's is empty (R96). -/
def GlareOk (s : State) : Prop :=
  ∀ v, GlareListOk (s.view v).glare ∧ ((s.view v).state = .stopped → (s.view v).glare = [])

/-- What a slot holds by its state (R2, R4): a FREE slot no frame; a FILLING slot a frame; every other slot a complete
frame, its fill point full, its gap flag clear and no write outstanding. -/
def SlotOk (rawBytes : Nat) (sl : Slot) : Prop :=
  match sl.state with
  | .free => sl.frame = none
  | .filling => sl.frame.isSome = true
  | _ => ∃ f, sl.frame = some f ∧ f.fillPoint = rawBytes ∧ f.gap = false ∧ f.writes = 0

/-- Every slot of both views (R4). -/
def SlotsOk (s : State) : Prop :=
  ∀ v, ∀ sl ∈ (s.view v).slots, SlotOk (s.geometry v).rawBytes sl

/-- The pointers of a view record name exactly the FILLING and the SHOWN slot, the pin request stands only on the SHOWN
slot and never beside a PINNED one, of which there is at most one; a STOPPED view has no frame in capture, no SHOWN slot
and nothing pending (R3, R4, R18, R173). -/
def ViewOk (x : View) : Prop :=
  (∀ (i : Nat) (sl : Slot), x.slots[i]? = some sl → (sl.state = .filling ↔ x.capture = .slotted i)) ∧
    (∀ i, x.capture = .slotted i → i < x.slots.length) ∧
    (∀ (i : Nat) (sl : Slot), x.slots[i]? = some sl → (sl.state = .shown ↔ x.shown = some i)) ∧
    (∀ i, x.shown = some i → i < x.slots.length) ∧
    (∀ sl : Slot, sl ∈ x.slots → sl.pinRequest = true →
      sl.state = .shown ∧ ∀ sl' : Slot, sl' ∈ x.slots → sl'.state ≠ .pinned) ∧
    (∀ (i j : Nat) (sl sl' : Slot), x.slots[i]? = some sl → x.slots[j]? = some sl' →
      sl.state = .pinned → sl'.state = .pinned → i = j) ∧
    (x.state = .stopped → x.capture = .none ∧ x.shown = none ∧ x.pendingDev = none ∧ x.pendingFlip = none)

/-- The views as a whole (R3, R4), with what it takes for a step to keep them so: slots hold what their state says, both
views are STOPPED outside ATTACHED, and a command in hand was handed over in ATTACHED (R170, R174, R177). -/
def ViewsOk (s : State) : Prop :=
  SlotsOk s ∧ (∀ v, ViewOk (s.view v)) ∧ (s.attach.state ≠ .attached → ∀ v, (s.view v).state = .stopped) ∧
    (s.attach.inHand.isSome = true → s.attach.state = .attached)

/-- A view that has slots has frames of some area (R24, R171): the slot table is built from the geometry of a valid
block. -/
def SlotAreasOk (s : State) : Prop := ∀ v, (s.view v).slots ≠ [] → 0 < (s.geometry v).w * (s.geometry v).h

/-- While the store is DISABLED its queue is empty (R147). -/
def StoreQueueOk (s : State) : Prop :=
  s.faults.length = Config.faultCount ∧ (s.history.disabled = true → s.history.queue = [])

end Sys2Proof.Machine
end

