-- ==== Sys2Proof/Certificates/Slice0/Obligations.lean ====
section
/-! DEFINITION. The statements for the provers. A statement that completes a command says what its next state holds, and
by `OnlyChanges` and `MarksStatus` that nothing else of the state changes; the port record `out` is written anew by every
command. -/

open Sys2Proof Sys2Proof.Machine

/-! ## The queue and what stops a command -/

/-- With command `c` at the front of the queue a step is `exec` of `c` on the state with the queue's rest, and on an
empty queue the part idles (log entry 2). -/
def Obligations.StepRunsFrontCommand : Prop :=
  (∀ (c : Instr) (s : State) (rest : List Instr), s.pending = c :: rest → step s = exec c (s.setPending rest)) ∧
    ∀ s : State, s.pending = [] → step s = .next s

/-- Every command answers a next state, with the queue of waiting commands as it was and the count of free values used
not lowered, unless the link cannot carry it, or it answers a transaction of which none is outstanding, and in those two
cases it stops; those two stops are the model's (log entry 1). -/
def Obligations.CommandsStopOnlyOnImpossibleInput : Prop :=
  ∀ (i : Instr) (s : State),
    (i.wellFormed = false → exec i s = .fault .illFormed) ∧
      (i.wellFormed = true → NothingAwaits s i → exec i s = .fault .noTransaction) ∧
      (i.wellFormed = true → ¬NothingAwaits s i →
        ∃ t, exec i s = .next t ∧ t.pending = s.pending ∧ s.freeIndex ≤ t.freeIndex)

/-! ## Resets -/

/-- A power-on reset leaves every piece of state at its reset value and the history store SCANNING; a link reset leaves
the same values outside the store, which keeps its lock, its active sector and its counts, and never starts a scan of
its own. In both, every word of the array but the one that was being programmed keeps its content. A link reset leaves
the position of a record it cut spoiled and passed over, makes a FULL or RETIRED marker it cut again first, leaves the
sector of an ACTIVE marker it cut INVALID and listed for erasure, puts the sector of an erase it cut at the head of the
erase list, and lets a CLEAR_HISTORY go on. That the held mark, the suspension and the holdoff of the report writer are
cleared is the model's choice (log entry 35); so are the held drive cycle of 0 (log entry 10), the copies kept of the
anchor record (log entry 5) and the list of requests that wait for the array (log entry 27). -/
def Obligations.ResetsLeaveResetValues : Prop :=
  let others (k p : Nat) (s t : State) : Prop :=
    (∀ j, j ≠ k → t.history.sectors[j]? = s.history.sectors[j]?) ∧
      ∀ j q, j ≠ k ∨ q ≠ p → t.history.word j q = s.history.word j q
  let keeps (s t : State) : Prop :=
    match s.history.op with
    | some (.record _ _ _) => others s.history.active s.history.nextPosition s t
    | some (.header i _ _) => others i 0 s t
    | _ => t.history.sectors = s.history.sectors
  ∀ (anc1 anc0 : Bool) (s : State),
    Completes (.powerOnReset anc1 anc0) s (fun t =>
      ResetLeaves anc1 anc0 s t ∧ t.history.scanning = true ∧ t.history.activity = .scanning ∧
        t.history.erase = none ∧ t.history.eraseList = [] ∧ t.history.lock = false ∧ t.history.op = none ∧
        t.history.waiting = [] ∧ t.history.clearing = none ∧ t.history.disabled = false ∧
        (s.history.op = none → t.history.sectors = s.history.sectors) ∧ keeps s t) ∧
      Completes (.linkReset anc1 anc0) s (fun t =>
        ResetLeaves anc1 anc0 s t ∧ t.history.scanning = s.history.scanning ∧ t.history.disabled = s.history.disabled ∧
          t.history.lock = s.history.lock ∧ t.history.active = s.history.active ∧
          t.history.serial = s.history.serial ∧ t.history.nextRecord = s.history.nextRecord ∧
          t.history.usable = s.history.usable ∧ t.history.erase = none ∧ t.history.op = none ∧
          (s.history.op = none → t.history.sectors = s.history.sectors ∧ t.history.nextPosition = s.history.nextPosition) ∧
          keeps s t ∧
          (∀ i content n, s.history.op = some (.record i content n) →
            t.history.nextPosition = s.history.nextPosition + 1 ∧
              ∀ l, s.history.sectors[s.history.active]? = some l → s.history.nextPosition < l.length →
                let w := t.history.word s.history.active s.history.nextPosition
                isCommitted w = false ∧ isEmptyPosition w = false) ∧
          (∀ i m n, s.history.op = some (.header i m n) → (∀ k, m ≠ .active k) →
            t.history.waiting.head? = some (.header i m) ∧ t.history.known = s.history.known) ∧
          (∀ i k n, s.history.op = some (.header i (.active k) n) →
            t.history.known = s.history.known.set i .invalid ∧
              (s.history.clearing = none → i ∈ t.history.eraseList)) ∧
          (∀ e, s.history.erase = some e → s.history.clearing = none →
            t.history.eraseList.head? = some e.sector) ∧
          (s.history.clearing.isSome = true → s.history.scanning = false → s.history.disabled = false →
            t.history.clearing = some .erasing ∧ t.history.activity = .clearing ∧ t.history.eraseList = []))

/-! ## The timebase and the PWM counter -/

/-- A microsecond passes for the timebase, the status holdoff, a program in progress and an erase that is not frozen; a
PWM clock raises the counter, and a wrap takes it from P + 1 to 0 and loads both channels' working duty and the working
pair from the staged ones; while the counter is held neither takes place. A backlight output is at its active level
while the counter is below the working duty, high unless inverted. A row at another count leaves the state as it is (the
model's choice, log entry 11), and the counts of the holdoff, of a program and of an erase are kept in ticks (the
model's choice, log entry 12). -/
def Obligations.TimeAndPwmAdvance : Prop :=
  (∀ s : State,
    Completes .timebaseTick s (fun t =>
      t.timebase = s.timebase + 1 ∧ t.report.status.holdoff = s.report.status.holdoff - 1 ∧
        t.report.status.flight = s.report.status.flight ∧ t.report.status.suspended = s.report.status.suspended ∧
        t.report.status.writeCount = s.report.status.writeCount ∧
        (∀ i content n, s.history.op = some (.record i content n) → t.history.op = some (.record i content (n - 1))) ∧
        (∀ i m n, s.history.op = some (.header i m n) → t.history.op = some (.header i m (n - 1))) ∧
        (∀ i, s.history.op = some (.copy i) → t.history.op = some (.copy i)) ∧
        (∀ e, s.history.erase = some e → ∃ e', t.history.erase = some e' ∧ e'.sector = e.sector ∧
          e'.suspensions = e.suspensions ∧
          e'.remaining = if e.phase = .frozen then e.remaining else e.remaining - 1) ∧
        t.history.sectors = s.history.sectors ∧ t.history.known = s.history.known ∧
        t.history.queue = s.history.queue ∧ t.history.lock = s.history.lock ∧
        OnlyChanges [.timebase, .statusWriter, .history] s t ∧ MarksStatus s t) ∧
      (if s.pwm.counting = true ∧ s.pwm.counter = s.pwm.workingP + 1 then
        Completes .pwmWrap s fun t =>
          t.pwm = { s.pwm with counter := 0, workingD := s.pwm.stagedD, workingP := s.pwm.stagedP } ∧
            (∀ v, t.view v = { s.view v with working := (s.view v).staged }) ∧
            OnlyChanges [.pwm, .viewLeft, .viewRight] s t ∧ MarksStatus s t
      else Stays .pwmWrap s) ∧
      (if s.pwm.counting = true ∧ s.pwm.counter < s.pwm.workingP + 1 then
        Completes .pwmClock s fun t =>
          t.pwm = { s.pwm with counter := s.pwm.counter + 1 } ∧ OnlyChanges [.pwm] s t ∧ MarksStatus s t
      else Stays .pwmClock s)) ∧
    ∀ (s : State) (v : Side),
      s.backlightHigh v = true ↔ (s.pwm.counter < (s.view v).working ↔ (s.view v).inverted = false)

/-! ## The capture strobe (chapter 1) -/

/-- A capture strobe that a view takes settles the frame in capture and opens the next (R7 to R10). The slot of an empty
predecessor is filled again; the slot of any other predecessor becomes FREE, and then the lowest FREE slot is filled,
else that of the oldest READY frame, and with neither the frame is unslotted. The slot filled is set up as R10 lists,
its snapshot with the tone curve of the mode (R36), and every other slot stays. With the sequence exhausted the
predecessor's slot becomes FREE and nothing fills. EMPTY_FRAME or SHORT_FRAME fails for the frame that was in capture.
The pending development part comes into force first, and nothing else of the view changes: an open burst keeps its
binding. -/
def Obligations.CaptureStrobeOpensFrame : Prop :=
  ∀ (v : Side) (s : State), ViewsOk s → FaultsOk s → (s.view v).live = true →
    Completes (.captureStrobe v) s fun t =>
      let x := s.view v
      let y := t.view v
      let fill (k : Nat) : Option Nat := (x.slots[k]?.bind Slot.frame).map Frame.fillPoint
      let freed (sl : Slot) : Slot := { sl with state := .free, pinRequest := false, frame := none }
      let settled (j : Nat) : Option Slot :=
        if x.capture = .slotted j ∧ fill j ≠ some 0 then x.slots[j]?.map freed else x.slots[j]?
      y =
          { x with
            captureLatch := { time := s.timebase, awaiting := true }
            pendingDev := none
            nextSequence := y.nextSequence
            capture := y.capture
            slots := y.slots } ∧
        (∀ (j : Nat) (sl : Slot), x.slots[j]? = some sl → sl.state = .shown ∨ sl.state = .draining ∨ sl.state = .pinned →
          y.slots[j]? = some sl) ∧
        (∀ c, t.attach.current = some c →
          let d := (c.views.get v).dev
          t.snapshot v =
            { black := d.black, ratio := d.ratio, knee := d.knee, shift := d.shift
              curve := if s.ladder.mode = .night then d.curveB else d.curveA, glareThreshold := d.glareThreshold }) ∧
        (match x.nextSequence with
        | some n =>
          let opened : Frame :=
            { sequence := n, captureTime := s.timebase, fillPoint := 0, gap := false, writes := 0, signature := 0
              tiles := List.replicate 128 ⟨0, 0⟩, snapshot := t.snapshot v, staleLatched := false }
          y.nextSequence = (if n = BitVec.allOnes 32 then none else some (n + 1)) ∧
            ∃ c : Option Nat,
              (∀ k, x.capture = .slotted k → fill k = some 0 → c = some k) ∧
              ((∀ k, x.capture = .slotted k → fill k ≠ some 0) →
                (∀ (i : Nat) (sl : Slot), settled i = some sl → sl.state = .free →
                  (∀ (j : Nat) (sl' : Slot), j < i → settled j = some sl' → sl'.state ≠ .free) → c = some i) ∧
                ((∀ (i : Nat) (sl : Slot), settled i = some sl → sl.state ≠ .free) →
                  (∀ (i : Nat) (sl : Slot) (g : Frame), settled i = some sl → sl.state = .ready → sl.frame = some g →
                    (∀ (j : Nat) (sl' : Slot) (g' : Frame), j ≠ i → settled j = some sl' → sl'.state = .ready →
                      sl'.frame = some g' → g.sequence.toNat < g'.sequence.toNat) → c = some i) ∧
                  ((∀ (i : Nat) (sl : Slot), settled i = some sl → sl.state ≠ .ready) → c = none))) ∧
              y.capture = (match c with
                | some i => .slotted i
                | none => .unslotted (some n)) ∧
              ∀ j : Nat, y.slots[j]? =
                if c = some j then
                  (settled j).map fun sl => { sl with state := .filling, pinRequest := false, frame := some opened }
                else settled j
        | none =>
          y.nextSequence = none ∧ y.capture = .unslotted none ∧
            ∀ j : Nat, y.slots[j]? = if x.capture = .slotted j then x.slots[j]?.map freed else x.slots[j]?) ∧
        (match x.capture with
        | .slotted k =>
          ∀ f : Frame, x.slots[k]?.bind Slot.frame = some f →
            GivesIf (f.fillPoint = 0) (entryIndex .emptyFrame v) (.fail 0 (some f.sequence) s.timebase) s t ∧
              GivesIf (f.fillPoint ≠ 0) (entryIndex .shortFrame v)
                (.fail (detailWord 0 f.fillPoint) (some f.sequence) s.timebase) s t
        | _ => t.faults = s.faults ∧ t.report.backlog = s.report.backlog) ∧
        TakesParts v x.pendingDev none s t ∧ OnlyEvidence s t ∧
        OnlyChanges [viewPart v, .attach, .faults, .report, .statusWriter, .history] s t ∧ MarksStatus s t

/-- A strobe of a STOPPED view is latched and does nothing else: no frame opens, no flip is taken and no evidence is
given. -/
def Obligations.StoppedViewsOnlyLatchStrobes : Prop :=
  (∀ x : View, x.live = true ↔ x.state ≠ .stopped) ∧
  (∀ (v : Side) (s : State), StoreQueueOk s → (s.view v).state = .stopped →
    Completes (.captureStrobe v) s (fun t =>
      t.view v = { s.view v with captureLatch := { time := s.timebase, awaiting := true } } ∧
        OnlyChanges [viewPart v] s t ∧ MarksStatus s t) ∧
      Completes (.displayStrobe v) s (fun t =>
        t.view v = { s.view v with displayLatch := { time := s.timebase, awaiting := true } } ∧
          OnlyChanges [viewPart v] s t ∧ MarksStatus s t))

/-! ## The flip -/

/-- A display strobe of a running view with a READY slot shows the newest READY frame: every other READY slot becomes
FREE, the slot shown before goes to PINNED, DRAINING or FREE, other slots stay, STARTING ends, and the view is BLANKED
exactly while a SAFETY entry of it is ACTIVE. The pending flip part comes into force; the development part, the open
burst and all that is not named stay. -/
def Obligations.FlipShowsNewestFrame : Prop :=
  ∀ (v : Side) (s : State) (i : Nat) (sl : Slot) (f : Frame), BlankingOk s →
    (s.view v).live = true → (s.view v).slots[i]? = some sl → sl.state = .ready → sl.frame = some f →
    (∀ (j : Nat) (sl' : Slot) (g : Frame), (s.view v).slots[j]? = some sl' → j ≠ i → sl'.state = .ready →
      sl'.frame = some g → g.sequence.toNat < f.sequence.toNat) →
    Completes (.displayStrobe v) s fun t =>
      let x := s.view v
      let y := t.view v
      y =
          { x with
            slots := y.slots
            shown := some i
            displayLatch := { time := s.timebase, awaiting := true }
            pendingFlip := none
            state := y.state
            pan := y.pan
            glare := y.glare
            staged := y.staged
            inverted := y.inverted } ∧
        y.state = (if t.safetyActive v then .blanked else .running) ∧
        (∃ stale, y.slots[i]? = some { sl with state := .shown, frame := some { f with staleLatched := stale } } ∧
          (stale = true ↔ f.staleLatched = true ∨
            2 ^ 31 ≤ (s.timebase - f.captureTime).toNat ∨
              (s.limits v).staleLimit < (s.timebase - f.captureTime).toNat)) ∧
        (∀ (j : Nat) (sl' : Slot), x.slots[j]? = some sl' → j ≠ i →
          y.slots[j]? = some
            (match sl'.state with
            | .ready => { sl' with state := .free, pinRequest := false, frame := none }
            | .shown =>
              if sl'.pinRequest then { sl' with state := .pinned, pinRequest := false }
              else if sl'.reads ≠ 0 then { sl' with state := .draining }
              else { sl' with state := .free, pinRequest := false, frame := none }
            | _ => sl')) ∧
        TakesParts v none x.pendingFlip s t ∧ OnlyEvidence s t ∧
        OnlyChanges [viewPart v, .attach, .faults, .report, .statusWriter, .history] s t ∧ MarksStatus s t

/-- A display strobe of a running view without a READY slot is a repeat: every slot stays, but that the stale flag of
the shown frame is set where its age exceeds the limit and the view is not STARTING (R105), and a STARTING view stays
STARTING; any other is BLANKED exactly while a SAFETY entry of it is ACTIVE. The pending flip part comes into force; the
development part, the open burst and all that is not named stay. -/
def Obligations.RepeatFlipKeepsSlots : Prop :=
  ∀ (v : Side) (s : State), BlankingOk s → (s.view v).live = true →
    (∀ sl : Slot, sl ∈ (s.view v).slots → sl.state ≠ .ready) →
    Completes (.displayStrobe v) s fun t =>
      let x := s.view v
      let y := t.view v
      y =
          { x with
            slots := y.slots
            shown := x.shown
            displayLatch := { time := s.timebase, awaiting := true }
            pendingFlip := none
            state := y.state
            pan := y.pan
            glare := y.glare
            staged := y.staged
            inverted := y.inverted } ∧
        y.state = (if x.state = .starting then .starting else if t.safetyActive v then .blanked else .running) ∧
        (∀ (j : Nat) (sl : Slot), x.slots[j]? = some sl →
          (x.shown ≠ some j ∨ x.state = .starting → y.slots[j]? = some sl) ∧
            (x.shown = some j → x.state ≠ .starting →
              y.slots[j]? = some
                { sl with
                  frame := sl.frame.map fun f =>
                    let age := (s.timebase - f.captureTime).toNat
                    { f with
                      staleLatched := f.staleLatched || decide (2 ^ 31 ≤ age ∨ (s.limits v).staleLimit < age) } })) ∧
        TakesParts v none x.pendingFlip s t ∧ OnlyEvidence s t ∧
        OnlyChanges [viewPart v, .attach, .faults, .report, .statusWriter, .history] s t ∧ MarksStatus s t

/-- At every flip the pan origin moves toward its target on each axis by the smaller of the step and the distance, and
the staged duty moves toward the target of R112 by at most bl_step and is clamped into duty_min..duty_max; the fields are
those of the pending flip part where there is one. -/
def Obligations.FlipSlewsPanAndDuty : Prop :=
  ∀ (v : Side) (s : State) (c : Settings), s.attach.current = some c → (s.view v).live = true →
    Completes (.displayStrobe v) s fun t =>
      let x := s.view v
      let y := t.view v
      let f := x.pendingFlip.getD (c.views.get v).flip
      let toward (step from' target : Nat) : Nat :=
        if target < from' then from' - min step (from' - target) else from' + min step (target - from')
      let target :=
        if y.state = .running then
          match s.ladder.mode with
          | .day => f.dayDuty
          | .dusk => f.duskDuty
          | .night => if y.glare.any (fun e => decide (e.target < 256)) then f.nightDuty - f.glareTrim else f.nightDuty
        else f.blankDuty
      y.pan = (toward f.panStepX x.pan.1 x.panTarget.1, toward f.panStepY x.pan.2 x.panTarget.2) ∧
        y.panTarget = x.panTarget ∧ y.staged = max f.dutyMin (min f.dutyMax (toward f.blStep x.staged target)) ∧
        y.working = x.working ∧ t.flipFields v = f ∧
        y.inverted = (match x.pendingFlip with
          | some p => p.inversion
          | none => x.inverted)

/-! ## Glare (chapter 6) -/

/-- The work of a flip. The glare list obeys the steps of R86 to R95: which tiles are candidates and in which order, how
each is inserted, displaces or is left out, what the targets are and how each gain moves, and the laws that R92 states
of the list it leaves. The flip then leaves that list in the view, gives GLARE_OVERFLOW if a tile was left out, and
gives STALE_IMAGE, LATE_FRAME and DISPLAY_IDLE the evidence of R103 and R105 to R107. -/
def Obligations.GlareWorkKeepsLaws : Prop :=
  (∀ (mode : Mode) (f : FlipFields) (oldFloor tilePixels : Nat) (tiles : Option (List Tile)) (l : List GlareEntry),
    64 ≤ f.gainFloor → f.gainFloor ≤ 256 → GlareListOk l →
    (∀ e ∈ l, oldFloor ≤ e.gain ∧ e.gain ≤ 256 ∧ oldFloor ≤ e.target ∧ e.target ≤ 256) →
    let a := glareWork mode f oldFloor tilePixels tiles l
    let toward (x target : Nat) : Nat :=
      if target < x then x - min f.stepDown (x - target) else x + min f.stepUp (target - x)
    let target (g : Nat) : Nat :=
      if f.glareMin ≤ g then max f.gainFloor (256 - min 256 (g * f.slope / tilePixels)) else 256
    let lift (x : Nat) : Nat := if oldFloor < f.gainFloor then max f.gainFloor x else x
    let ramped (m : List GlareEntry) : Prop :=
      ∀ e, e ∈ a.list ↔
        ∃ e0 ∈ m, e = { e0 with gain := toward e0.gain e0.target } ∧ ¬(e.target = 256 ∧ e.gain = 256)
    GlareListOk a.list ∧
      (∀ e ∈ a.list, min oldFloor f.gainFloor ≤ e.gain ∧ e.gain ≤ 256 ∧ min oldFloor f.gainFloor ≤ e.target ∧
        e.target ≤ 256 ∧ (e.gain ≠ 256 ∨ e.target ≠ 256) ∧
        (oldFloor ≤ f.gainFloor → f.gainFloor ≤ e.gain ∧ f.gainFloor ≤ e.target)) ∧
      a.list.Pairwise (fun x y => y.count < x.count ∨ (x.count = y.count ∧ x.tile < y.tile)) ∧
      (∀ e ∈ l, ∀ e' ∈ a.list, e'.tile = e.tile →
        e'.gain ≤ max f.gainFloor e.gain + f.stepUp ∧ e.gain ≤ e'.gain + f.stepDown) ∧
      (mode ≠ .night ∨ tiles = none → a.refused = 0 ∧ ∀ e ∈ a.list, ∃ e' ∈ l, e'.tile = e.tile) ∧
      (mode ≠ .night → ramped (l.map fun e => { e with target := 256, gain := lift e.gain })) ∧
      (mode = .night → tiles = none → ramped (l.map fun e => { e with target := lift e.target, gain := lift e.gain })) ∧
      ∀ ts : List Tile, mode = .night → tiles = some ts →
        let count (i : Nat) : Nat := ((ts[i]?).map Tile.glareCount).getD 0
        let m := l.map fun e =>
          { e with count := count e.tile, target := target (count e.tile), gain := lift e.gain }
        let cs := candidates f tilePixels ts m
        let b := cs.foldl Admission.offer { list := m, refused := 0, firstRefused := 0 }
        (∀ c, c ∈ cs ↔ c.tile < 128 ∧ (∀ e ∈ l, e.tile ≠ c.tile) ∧ f.glareMin ≤ count c.tile ∧
          c = { tile := c.tile, count := count c.tile, target := target (count c.tile), gain := 256 }) ∧
          cs.Pairwise (fun x y => y.count < x.count ∨ (x.count = y.count ∧ x.tile < y.tile)) ∧ ramped b.list ∧
          a.refused = b.refused ∧ a.firstRefused = b.firstRefused) ∧
    (∀ (a : Admission) (c : GlareEntry),
      (a.list.length < 24 → a.offer c = { a with list := a.list ++ [c] }) ∧
        (24 ≤ a.list.length → (∀ e ∈ a.list, e.target < 256) →
          a.offer c =
            { a with refused := a.refused + 1, firstRefused := if a.refused = 0 then c.tile else a.firstRefused }) ∧
        ∀ d ∈ a.list, 24 ≤ a.list.length → 256 ≤ d.target →
          (∀ e ∈ a.list, 256 ≤ e.target → e ≠ d → e.gain < d.gain ∨ (e.gain = d.gain ∧ d.tile < e.tile)) →
          a.offer c = { a with list := a.list.filter (fun e => e.tile != d.tile) ++ [c] }) ∧
    ∀ (v : Side) (s : State) (c : Settings), s.attach.current = some c → (s.view v).live = true → FaultsOk s →
      ViewsOk s →
      Completes (.displayStrobe v) s fun t =>
        let x := s.view v
        let y := t.view v
        let fields := x.pendingFlip.getD (c.views.get v).flip
        let limits := (c.views.get v).limits
        let isNew : Bool := x.slots.any fun sl => sl.state == .ready
        let shown : Option Frame := (y.shown.bind fun i => y.slots[i]?).bind Slot.frame
        let work := glareWork s.ladder.mode fields (c.views.get v).flip.gainFloor ((s.geometry v).w / 16 * ((s.geometry v).h / 8))
          (if isNew then shown.map Frame.tiles else none) x.glare
        let age (f : Frame) : Nat := (s.timebase - f.captureTime).toNat
        let above (n limit : Nat) : Prop := 2 ^ 31 ≤ n ∨ limit < n
        let stale := entryIndex .staleImage v
        let late := entryIndex .lateFrame v
        y.glare = work.list ∧
          GivesIf (work.refused ≠ 0) (entryIndex .glareOverflow v)
            (.fail (detailBytes work.refused work.firstRefused 0) (shown.map Frame.sequence) s.timebase) s t ∧
          GivesIf (x.displayLatch.awaiting = true) (entryIndex .displayIdle v)
            (.fail (detailWord 0 x.displayLatch.time.toNat) none s.timebase) s t ∧
          (if x.state = .starting ∧ isNew = false then
            let waited := (s.timebase - x.startTime).toNat
            (above waited limits.startLimit → Gives stale (.fail (detailWord 1 x.startTime.toNat) none s.timebase) s t) ∧
              (¬above waited limits.startLimit → Gives stale .pass s t) ∧ t.fault late = s.fault late
          else
            ∀ f : Frame, shown = some f →
              (above (age f) limits.staleLimit → f.staleLatched = true) ∧
                (f.staleLatched = true →
                  Gives stale (.fail (detailWord 0 f.captureTime.toNat) (some f.sequence) s.timebase) s t) ∧
                (f.staleLatched = false → Gives stale .pass s t) ∧
                (isNew = true → above (age f) limits.latencyLimit →
                  Gives late (.fail (detailWord 0 (age f)) (some f.sequence) s.timebase) s t) ∧
                (isNew = true → ¬above (age f) limits.latencyLimit → Gives late .pass s t) ∧
                (isNew = false → t.fault late = s.fault late ∧
                  ∃ f0, (x.shown.bind fun i => x.slots[i]?).bind Slot.frame = some f0 ∧
                    f = { f0 with staleLatched := f.staleLatched } ∧
                    (f.staleLatched = true ↔ f0.staleLatched = true ∨ above (age f0) limits.staleLimit)))
/-! ## The fabric port (chapter 10) -/

/-- A write address is accepted while fewer than 16 writes are outstanding, with its class of that moment; a plain or
control write asks the memory port for the same burst, and no other class asks for anything yet. At 16 the address is
held. -/
def Obligations.FabricWritesAreAccepted : Prop :=
  (∀ (p : Path) (u : UpWrite), p.dataOwner = some u ↔ FirstOf (fun w => w.left ≠ 0) p.writes u) ∧
  (∀ (a : AddrPhase) (s : State), a.wellFormed = true →
    if s.path.writes.length < 16 then
      Completes (.fabricWriteAccept a) s fun t =>
        (∃ u : UpWrite, t.path.writes = s.path.writes ++ [u] ∧ u.a = a ∧ u.cls = classifyWrite s a ∧ u.left = a.len ∧
          u.ready = none ∧ u.downResp = none ∧ u.cut = false ∧ u.mask = 0 ∧ u.watch = watchOf s a u.cls ∧ u.tag = s.path.nextTag ∧
          t.path =
            { s.path with
              writes := t.path.writes
              nextTag := s.path.nextTag + 1
              readyW :=
                if u.cls = .plain ∨ u.cls = .control then
                  s.path.readyW ++
                    [{ owner := .plain, tag := u.tag, upId := a.id, a := a, unsent := a.len, buffer := [] }]
                else s.path.readyW }) ∧
          t.out = [] ∧ OnlyChanges [.path] s t ∧ MarksStatus s t
    else Stays (.fabricWriteAccept a) s)

/-- The class of a write (R156, R158, R159): plain outside ATTACHED; by the lowest-numbered matching entry while
ATTACHED. A capture write of a view that is not STOPPED passes its five checks in order; a write to a view aperture, and
an exclusive, FIXED or WRAP write to the control page, is refused without evidence. Any other control write, and a write
that no entry matches, is compared with the guards: refused without evidence where it crosses 4 KiB, otherwise refused
by the guard that holds its lowest byte lying in any guard (a table entry before a derived range, the lowest-numbered
first), and otherwise control or plain. A write whose start a GUARD entry matches is always refused. The bytes a burst
may write, and the address of each of its beats, are those of its INCR, FIXED or WRAP form; only an INCR burst can leave
its 4 KiB block. That an exclusive, FIXED or WRAP control write is refused before it is compared with the guards is the
model's choice (log entry 41). -/
def Obligations.WriteClassesFollowTheTable : Prop :=
  (∀ a : AddrPhase, 0 < a.len →
    let n := 2 ^ a.size
    let start := a.addr.toNat
    let aligned := start - start % n
    let total := a.len * n
    let low := start - start % total
    (match a.burst with
      | .incr =>
        firstByte a = start ∧ endByte a = aligned + total ∧ beatAddress a 0 = start ∧
          ∀ k, 0 < k → beatAddress a k = aligned + k * n
      | .fixed => firstByte a = start ∧ endByte a = aligned + n ∧ ∀ k, beatAddress a k = start
      | .wrap =>
        firstByte a = low ∧ endByte a = low + total ∧ ∀ k, beatAddress a k = low + (start - low + k * n) % total) ∧
      (crosses4K a = true ↔ a.burst = .incr ∧ start / 4096 < (aligned + total - 1) / 4096)) ∧
  (∀ (r : Region) (b : Nat), r.holds b = true ↔ r.base.toNat ≤ b ∧ b < r.base.toNat + 2 ^ r.exponent) ∧
  (∀ (s : State) (a : AddrPhase), a.wellFormed = true →
    let slotHolds (v : Side) (k b : Nat) : Prop :=
      ∃ sl : Slot, (s.view v).slots[k]? = some sl ∧ sl.base.toNat ≤ b ∧
        b < sl.base.toNat + (s.geometry v).w * (s.geometry v).h * 2
    let holds (q : Nat × Nat) (b : Nat) : Prop :=
      match q with
      | (0, e) =>
        ∃ r : Region, s.table[e]? = some (some r) ∧ r.kind = .guard ∧ r.base.toNat ≤ b ∧ b < r.base.toNat + 2 ^ r.exponent
      | (1, k) => slotHolds .left k b
      | (2, k) => slotHolds .right k b
      | (3, 0) => s.reportArea.toNat ≤ b ∧ b < s.reportArea.toNat + 4096
      | _ => False
    let code (q : Nat × Nat) : Byte :=
      BitVec.ofNat 8 (match q with
        | (0, e) => e
        | (1, k) => 0x10 + k
        | (2, k) => 0x14 + k
        | _ => 0x20)
    let compared (cls : WriteClass) : Prop :=
      (crosses4K a = true → classifyWrite s a = .refused .nothing) ∧
        (crosses4K a = false → (∀ q b, firstByte a ≤ b → b < endByte a → ¬holds q b) → classifyWrite s a = cls) ∧
        (crosses4K a = false → ∀ q b, firstByte a ≤ b → b < endByte a → holds q b →
          (∀ q' b', firstByte a ≤ b' → b' < b → ¬holds q' b') →
          (∀ q', holds q' b → q.1 < q'.1 ∨ (q.1 = q'.1 ∧ q.2 ≤ q'.2)) →
          classifyWrite s a = .refused (.guardWrite (code q)))
    (s.attach.state ≠ .attached → classifyWrite s a = .plain) ∧
      (s.attach.state = .attached →
        (∀ (i : Nat) (r : Region), s.table[i]? = some (some r) → r.holds a.addr.toNat = true →
          (∀ (j : Nat) (r' : Region), j < i → s.table[j]? = some (some r') → r'.holds a.addr.toNat = false) →
          match r.kind with
          | .capture v initiator mask =>
            classifyWrite s a =
              if (s.view v).state = .stopped then .capture v r.base true
              else if a.excl = true then .refused (.captureRefused v 1 (a.addr.toNat - r.base.toNat))
              else if a.burst ≠ .incr then .refused (.captureRefused v 2 (a.addr.toNat - r.base.toNat))
              else if crosses4K a = true then .refused (.captureRefused v 5 (a.addr.toNat - r.base.toNat))
              else if a.size ≠ 4 then .refused (.captureRefused v 3 (a.addr.toNat - r.base.toNat))
              else if a.id &&& mask ≠ initiator &&& mask then
                .refused (.captureRefused v 4 (a.addr.toNat - r.base.toNat))
              else .capture v r.base false
          | .view _ => classifyWrite s a = .refused .nothing
          | .control =>
            if a.excl = true ∨ a.burst ≠ .incr then classifyWrite s a = .refused .nothing else compared .control
          | .guard => compared .plain ∧ ∃ e, classifyWrite s a = .refused e) ∧
        ((∀ (i : Nat) (r : Region), s.table[i]? = some (some r) → r.holds a.addr.toNat = false) → compared .plain) ∧
        (classifyWrite s a = .plain ∨ classifyWrite s a = .control →
          crosses4K a = false ∧
            (∀ (r : Region) (b : Nat), some r ∈ s.table → r.kind = .guard → firstByte a ≤ b → b < endByte a →
              ¬(r.base.toNat ≤ b ∧ b < r.base.toNat + 2 ^ r.exponent)) ∧
            (∀ (v : Side) (sl : Slot) (b : Nat), sl ∈ (s.view v).slots → firstByte a ≤ b → b < endByte a →
              ¬(sl.base.toNat ≤ b ∧ b < sl.base.toNat + (s.geometry v).w * (s.geometry v).h * 2)) ∧
            ∀ b : Nat, firstByte a ≤ b → b < endByte a →
              ¬((s.reportArea).toNat ≤ b ∧ b < (s.reportArea).toNat + 4096))))

/-- A read address is accepted while fewer than 16 reads are outstanding, and classified by the lowest-numbered matching
entry while ATTACHED: forwarded, answered by the part, or handed to the view read unit. A plain one asks the memory port
for the same burst. A refused one is answered by the part: at once, every beat SLVERR, where no earlier read of its ID is
outstanding. A view read clears the display latch's awaiting flag, with DISPLAY_IDLE's pass if it was set, and is of kind
refused, pattern or forwarded; a forwarded one asks for its pieces in view order and is charged to the SHOWN slot. The
pieces serve every beat of the burst once, in order, none crossing 4 KiB of memory or the end of a view line. At 16 the
address is held. -/
def Obligations.FabricReadsAreAccepted : Prop :=
  (∀ (a : AddrPhase) (s : State), a.wellFormed = true → TagsOk s →
      if s.path.reads.length < 16 then
        Completes (.fabricReadAccept a) s fun t =>
          match classifyRead s a with
          | .plain =>
            t.path =
                { s.path with
                  reads := s.path.reads ++ [{ tag := s.path.nextTag, a := a, cls := .plain, held := [], passed := 0 }]
                  readyR := s.path.readyR ++ [{ owner := .plain, tag := s.path.nextTag, a := a, unreturned := a.len }]
                  nextTag := s.path.nextTag + 1 } ∧
              t.out = [] ∧ OnlyChanges [.path] s t ∧ MarksStatus s t
          | .view v base refused =>
            (∃ (u : UpRead) (r : ReadRecord), t.path.reads = s.path.reads ++ [u] ∧ u.a = a ∧ u.cls = .view r ∧ r.view = v ∧
              r.error = false ∧ r.held = [] ∧
              (r.kind = .refused ↔ refused = true ∨ a.size ≠ 4 ∨ a.addr.toNat % 16 ≠ 0 ∨
                (s.geometry v).vw * (s.geometry v).vh * 2 ≤ a.addr.toNat - base.toNat + 16 * a.len - 1) ∧
              (r.kind = .forwarded → (s.view v).state = .running ∧ (s.view v).shown.isSome = true) ∧
              (r.kind = .pattern → ¬((s.view v).state = .running ∧ (s.view v).shown.isSome = true)) ∧
              (r.kind ≠ .forwarded → r.charged = none ∧ r.pieces = [] ∧ t.path.readyR = s.path.readyR ∧
                (t.view v).slots = (s.view v).slots) ∧
              (∀ (i : Nat) (sl : Slot), r.kind = .forwarded → (s.view v).shown = some i → (s.view v).slots[i]? = some sl →
                r.charged = some i ∧
                  r.pieces = splitBurst (s.geometry v) (s.view v).pan sl.base (a.addr.toNat - base.toNat) a.len ∧
                  r.outstanding = r.pieces.length ∧ (t.view v).slots[i]? = some { sl with reads := sl.reads + 1 } ∧
                  t.path.readyR = s.path.readyR ++ r.pieces.map fun p =>
                    { owner := .piece v, tag := u.tag
                      a := { id := viewBusId v, addr := p.addr, len := p.len, size := 4, burst := .incr, excl := false }
                      unreturned := p.len })) ∧
              (t.view v).displayLatch = { (s.view v).displayLatch with awaiting := false } ∧
              ((s.view v).displayLatch.awaiting = false → t.faults = s.faults) ∧
              (FaultsOk s →
                GivesIf ((s.view v).displayLatch.awaiting = true) (entryIndex .displayIdle v) .pass s t) ∧
              OnlyEvidence s t ∧ OnlyChanges [.path, viewPart v, .faults, .report, .statusWriter, .history] s t ∧
              MarksStatus s t
          | _ =>
            (∃ data : List Beat, data.length = a.len ∧ (classifyRead s a = .zeros → data = List.replicate a.len 0) ∧
              if (∃ u ∈ s.path.reads, u.a.id = a.id) then
                (∃ u : UpRead, t.path.reads = s.path.reads ++ [u] ∧ u.a = a ∧ u.cls = .answered ∧
                  u.held = data.map (fun d => { data := d, resp := .slverr }) ∧ u.passed = 0) ∧ t.out = []
              else
                t.path.reads = s.path.reads ∧ t.out = [.upData a.id (data.map fun d => { data := d, resp := .slverr })]) ∧
              t.path.readyR = s.path.readyR ∧ OnlyChanges [.path, .freeValues] s t ∧ MarksStatus s t
      else Stays (.fabricReadAccept a) s) ∧
    (∀ (s : State) (a : AddrPhase),
      (s.attach.state ≠ .attached → classifyRead s a = .plain) ∧
        (s.attach.state = .attached →
          (∀ (i : Nat) (r : Region), s.table[i]? = some (some r) → r.holds a.addr.toNat = true →
            (∀ (j : Nat) (r' : Region), j < i → s.table[j]? = some (some r') → r'.holds a.addr.toNat = false) →
            match r.kind with
            | .capture _ _ _ => classifyRead s a = .zeros
            | .view v =>
              classifyRead s a =
                .view v r.base (decide (a.excl = true ∨ a.burst ≠ .incr ∨ crosses4K a = true))
            | .control =>
              classifyRead s a =
                if crosses4K a = true then .zeros
                else if a.excl = true ∨ a.burst ≠ .incr then .unstated
                else .plain
            | .guard => classifyRead s a = if crosses4K a = true then .zeros else .plain) ∧
          ((∀ (i : Nat) (r : Region), s.table[i]? = some (some r) → r.holds a.addr.toNat = false) →
            classifyRead s a = if crosses4K a = true then .zeros else .plain))) ∧
    ∀ (g : Geometry) (px py o n : Nat) (base : Addr), 0 < g.vw → g.vw % 32 = 0 → g.vw ≤ g.w → g.w % 32 = 0 →
      px % 8 = 0 → o % 16 = 0 → 1 ≤ n → base.toNat % 4096 = 0 →
      let ps := splitBurst g (px, py) base o n
      (ps.flatMap fun p => (List.range p.len).map fun k => p.viewOffset + 16 * k) =
          ((List.range n).map fun k => o + 16 * k) ∧
        ∀ p ∈ ps, 1 ≤ p.len ∧ p.viewOffset % (g.vw * 2) + 16 * p.len ≤ g.vw * 2 ∧
          p.addr.toNat % 4096 + 16 * p.len ≤ 4096

/-- The data of a plain or control write passes to the memory port unchanged once its request is granted and the data of
the writes granted before it is sent; every byte of the watched record whose strobe is set is copied and marked as it
passes. The record watched is the command record of a control write, and the anchor record of a write accepted while
TRANSPARENT (the model's choice, log entry 5); it is covered once all its bytes are marked. The issue number, code and
arguments of a copied command record stand where R180 places them, and its code names the command. The data of a refused
write is discarded, and after its last beat it is answered SLVERR in its turn, GUARD_WRITE or CAPTURE_REFUSED occurring
once. Nothing is taken of a capture write here. That a beat waits for the data of the writes granted before it, with the
port's data channel always ready, is R164 and log entry 13 (the model's choice). -/
def Obligations.WriteDataIsPassedOrDiscarded : Prop :=
  (∀ (p : Path) (u : UpWrite),
    (∀ d, p.dataHead = some d ↔ FirstOf (fun e => e.unsent ≠ 0) p.downW d) ∧
      (p.takesDataOf u = true ↔ ∃ d, p.dataHead = some d ∧ d.tag = u.tag ∧ d.owner = .plain)) ∧
  ((∀ (data : Beat) (strb : Strobes) (s : State) (u : UpWrite), s.path.dataOwner = some u → TagsOk s → FaultsOk s →
    StoreQueueOk s →
    (∀ d : DownWrite, s.path.dataHead = some d → d.buffer = []) →
    match u.cls with
    | .capture _ _ _ => Stays (.writeDataBeat data strb) s
    | .refused e =>
      Completes (.writeDataBeat data strb) s fun t =>
        (if 1 < u.left then
          (∃ w ∈ t.path.writes, w = { u with left := u.left - 1 }) ∧ t.out = [] ∧ t.faults = s.faults
        else
          (if s.path.firstWrite u.a.id = some u then
            t.path.writes = (s.path.writes.filter fun w => w.tag != u.tag) ∧ t.out = [.upResponse u.a.id .slverr]
          else ∃ w ∈ t.path.writes, w = { u with left := 0, ready := some .slverr }) ∧
            match e with
            | .nothing => t.faults = s.faults
            | .guardWrite code => Occurs 22 (detailAddress code (u.a.id.setWidth 8) u.a.addr) s t
            | .captureRefused v reason offset =>
              if (s.view v).state = .stopped then t.faults = s.faults
              else Occurs (entryIndex .captureRefused v) (detailCaptureRefused reason u.a.id offset) s t) ∧
          t.path.downW = s.path.downW ∧ t.path.readyW = s.path.readyW ∧ OnlyEvidence s t ∧
          OnlyChanges [.path, .faults, .report, .statusWriter, .history] s t ∧ MarksStatus s t
    | _ =>
      if s.path.takesDataOf u = true then
        Completes (.writeDataBeat data strb) s fun t =>
          (∃ (d : DownWrite) (rest : List PortEvent), s.path.dataHead = some d ∧ d.tag = u.tag ∧
            t.out = .downWriteBeat d.a.id (.raw data strb) :: rest ∧
            (1 < d.unsent → rest = [])) ∧
            (∃ w ∈ t.path.writes, w.tag = u.tag ∧ w.left = u.left - 1 ∧ w.a = u.a ∧ w.cls = u.cls ∧
              w = { u.watchBeat data strb with left := u.left - 1 }) ∧
            OnlyChanges [.path] s t ∧ MarksStatus s t
      else Stays (.writeDataBeat data strb) s) ∧
    (∀ (u : UpWrite) (data : Beat) (strb : Strobes),
      let w := u.watchBeat data strb
      let low := beatAddress u.a (u.a.len - u.left) / 16 * 16
      w = { u with mask := w.mask, copy := w.copy } ∧ (u.watch = none → w = u) ∧
        ∀ (base : Addr) (len : Nat), u.watch = some (base, len) →
          (∀ i k, i < 16 → k < len → k < 32 → strb.getLsbD i = true → low + i = base.toNat + k →
            w.mask.getLsbD k = true ∧ byteOf w.copy k = byteOf data i) ∧
          (∀ k, k < 32 → (∀ i, i < 16 → k < len → strb.getLsbD i = true → low + i ≠ base.toNat + k) →
            w.mask.getLsbD k = u.mask.getLsbD k ∧ byteOf w.copy k = byteOf u.copy k) ∧
          (len ≤ 32 → (∀ k, len ≤ k → u.mask.getLsbD k = false) →
            (u.covers = true ↔ ∀ k, k < len → u.mask.getLsbD k = true))) ∧
    (∀ (s : State) (a : AddrPhase),
      (watchOf s a .plain = if s.attach.state = .transparent then some (s.attach.anchor, 16) else none) ∧
        ∀ (i : Nat) (r : Region), s.table[i]? = some (some r) → r.holds a.addr.toNat = true →
          (∀ (j : Nat) (r' : Region), j < i → s.table[j]? = some (some r') → r'.holds a.addr.toNat = false) →
          watchOf s a .control = some (r.base, 32)) ∧
    ∀ copy : BitVec 256,
      let r := commandRecord copy
      let at' (k : Nat) : Byte := byteOf copy k
      r.issue = at' 3 ++ at' 2 ++ at' 1 ++ at' 0 ∧ r.code = at' 4 ∧ (∀ k, k < 8 → byteOf r.argA k = at' (8 + k)) ∧
        (∀ k, k < 8 → byteOf r.argB k = at' (16 + k)) ∧
        r.command =
          (match (at' 4).toNat with
          | 1 => .applySettings r.argA
          | 2 => .startView (at' 8)
          | 3 => .stopView (at' 8)
          | 4 => .setPan (at' 8) (at' 11 ++ at' 10) (at' 13 ++ at' 12)
          | 5 => .pinFrame (at' 8)
          | 6 => .releasePin (at' 8)
          | 7 => .ackReports (at' 11 ++ at' 10 ++ at' 9 ++ at' 8)
          | 8 => .clearFault (at' 8)
          | 9 => .holdMode (at' 8)
          | 10 => .copyHistory (at' 8) r.argB
          | 11 => .clearHistory (at' 11 ++ at' 10 ++ at' 9 ++ at' 8)
          | 12 => .detach
          | _ => .unknownCommandCode (at' 4)))

/-! ## The capture stream (chapters 2 and 3) -/

/-- The first beat of a capture burst of a view that is not STOPPED opens it: it is bound to the FILLING slot, its run
is the beats from the fill point on that lie in the raw frame, and a run that is not empty asks the memory port for one
write at the slot's address, tagged with slot and sequence, raising the slot's outstanding write count. A burst that
starts off a 16-byte boundary counts from the beat it starts in (DEDUCED, log entry 15). Bursts of one beat, and
openings bound to no slot, are in CaptureBeatInRunIsDeveloped and CaptureBeatOutsideRunIsDropped. -/
def Obligations.CaptureBurstOpensAndIssuesRun : Prop :=
  ∀ (data : Beat) (strb : Strobes) (s : State) (u : UpWrite) (v : Side) (base : Addr) (i : Nat) (sl : Slot) (f : Frame),
    s.path.dataOwner = some u → u.cls = .capture v base false → u.left = u.a.len → 1 < u.a.len →
    (s.view v).live = true → (s.view v).capture = .slotted i → (s.view v).slots[i]? = some sl → sl.state = .filling →
    sl.frame = some f →
    Completes (.captureBeat data strb) s fun t =>
      let o := (u.a.addr.toNat - base.toNat) / 16 * 16
      let raw := (s.geometry v).w * (s.geometry v).h * 4
      let first := max o f.fillPoint
      let last := min (o + 16 * (u.a.len - 1)) (raw - 16)
      ∃ b f', (t.view v).burst = some b ∧ b.tag = u.tag ∧ b.binding = .slot i f.sequence ∧ b.nextOffset = o + 16 ∧
        (b.cut = none ↔ strb = BitVec.allOnes 16 ∧ u.a.addr.toNat % 16 = 0) ∧
        (t.view v).fillingWith i f.sequence = some f' ∧
        (if first ≤ last ∧ 16 ≤ raw then
          b.run = some (first, last) ∧ f'.writes = f.writes + 1 ∧
            ∃ d ∈ t.path.readyW, d.owner = .dev v i f.sequence ∧ d.tag = u.tag ∧
              d.a =
                { id := viewBusId v
                  addr := BitVec.ofNat 36 (sl.base.toNat + first / 2 / 16 * 16)
                  len := (last / 2 + 7) / 16 - first / 2 / 16 + 1
                  size := 4, burst := .incr, excl := false }
        else b.run = none ∧ f'.writes = f.writes ∧ t.path.readyW.length = s.path.readyW.length) ∧
        OnlyEvidence s t ∧ OnlyChanges [.path, viewPart v, .faults, .report, .statusWriter, .history] s t ∧
        MarksStatus s t

/-- A raw pair word holds its samples where R179 places them; each luma is the tone map of the merge of its two
exposures, and the developed word is (Y0, U, Y1, V) (R39). The opening of a capture burst binds it as R27 lists, to the
FILLING slot, as unslotted, unframed or stopped; a run that is not empty issues its memory write and raises the slot's
outstanding write count. A full beat inside the run whose frame is still filling, the burst's first and last beat among
them, is developed: the fill point passes it, the gap flag is set where bytes were skipped, its two developed words are
folded into the signature, each of its pixels is added to its tile (R43), and its eight developed bytes fill half of a
memory beat, which is sent once it is whole, the strobes of a missing half clear (sent at once where the write holds the
data channel: log entry 13; an unaligned start counts from its beat: log entry 15, DEDUCED). That a burst with a run is
answered at its last beat where the memory's answer has come before it is DEDUCED in log entry 16. The frame's first
beat clears the capture latch's awaiting flag and gives EMPTY_FRAME its pass. -/
def Obligations.CaptureBeatInRunIsDeveloped : Prop :=
  (∀ (p : Snapshot) (raw : BitVec 64),
    let bits (low width : Nat) : Nat := raw.toNat / 2 ^ low % 2 ^ width
    let e0 := mergeExposures p (bits 0 12) (bits 12 12)
    let e1 := mergeExposures p (bits 24 12) (bits 36 12)
    let pair := developPair p raw
    pair.first = ⟨toneMap p e0, e0⟩ ∧ pair.second = ⟨toneMap p e1, e1⟩ ∧
      pair.word.toNat =
        toneMap p e0 % 2 ^ 8 + bits 48 8 * 2 ^ 8 + toneMap p e1 % 2 ^ 8 * 2 ^ 16 + bits 56 8 * 2 ^ 24) ∧
  (∀ (g : Geometry) (x y : Nat), tileIndex g x y = y / (g.h / 8) * 16 + x / (g.w / 16)) ∧
  ((∀ (s : State) (v : Side) (u : UpWrite) (base : Addr) (whileStopped : Bool),
    let x := s.view v
    let t := s.openBurst v u base whileStopped
    let o := (u.a.addr.toNat - base.toNat) / 16 * 16
    let raw := (s.geometry v).w * (s.geometry v).h * 4
    let record (binding : Binding) (run : Option (Nat × Nat)) (fill : Nat) : Option OpenBurst :=
      some
        { tag := u.tag, binding := binding, nextOffset := o, run := run, cut := none, half := none, openFill := fill
          lastFill := fill }
    if whileStopped = true ∨ x.state = .stopped then t = s.setView v { x with burst := record .stopped none 0 }
    else
      match x.capture with
      | .none => t = s.setView v { x with burst := record .unframed none 0 }
      | .unslotted n => t = s.setView v { x with burst := record (.unslotted n) none 0 }
      | .slotted i =>
        ∀ (sl : Slot) (f : Frame), x.slots[i]? = some sl → sl.state = .filling → sl.frame = some f →
          let first := max o f.fillPoint
          let last := min (o + 16 * (u.a.len - 1)) (raw - 16)
          if first ≤ last ∧ 16 ≤ raw then
            let beats := (last / 2 + 7) / 16 - first / 2 / 16 + 1
            t =
              (s.setView v
                { x with
                  burst := record (.slot i f.sequence) (some (first, last)) f.fillPoint
                  slots := x.slots.set i { sl with frame := some { f with writes := f.writes + 1 } } }).setPath
                { s.path with
                  readyW := s.path.readyW ++
                    [{ owner := .dev v i f.sequence, tag := u.tag, upId := u.a.id
                       a :=
                        { id := viewBusId v, addr := BitVec.ofNat 36 (sl.base.toNat + first / 2 / 16 * 16), len := beats
                          size := 4, burst := .incr, excl := false }
                       unsent := beats, buffer := [] }] }
          else t = s.setView v { x with burst := record (.slot i f.sequence) none f.fillPoint }) ∧
    ∀ (data : Beat) (s : State) (u : UpWrite) (v : Side) (base : Addr) (whileStopped : Bool) (b : OpenBurst) (i : Nat)
      (n : BitVec 32) (f : Frame) (first last : Nat),
      TagsOk s → FaultsOk s → s.path.dataOwner = some u → u.cls = .capture v base whileStopped →
      (s.view v).live = true →
      let s1 := if u.left = u.a.len then s.openBurst v u base whileStopped else s
      (s1.view v).burst = some b → b.binding = .slot i n → b.cut = none →
      (u.left = u.a.len → u.a.addr.toNat % 16 = 0) → (s1.view v).fillingWith i n = some f →
      b.run = some (first, last) → first ≤ b.nextOffset → b.nextOffset ≤ last →
      Completes (.captureBeat data (BitVec.allOnes 16)) s fun t =>
        let o := b.nextOffset
        let p0 := developPair f.snapshot (data.extractLsb' 0 64)
        let p1 := developPair f.snapshot (data.extractLsb' 64 64)
        let g := s.geometry v
        let tileOf (k : Nat) : Nat := tileIndex g (2 * (k % (g.w / 2))) (k / (g.w / 2))
        let added (k : Nat) (p : Pair) (m : Nat) (x : Tile) : Tile :=
          if tileOf k = m then
            { lumaSum := x.lumaSum + p.first.luma + p.second.luma
              glareCount := x.glareCount + (if f.snapshot.glareThreshold ≤ p.first.merged then 1 else 0) +
                (if f.snapshot.glareThreshold ≤ p.second.merged then 1 else 0) }
          else x
        let m := memoryBeat b.half o last (some (p1.word ++ p0.word))
        let latch := (s.view v).captureLatch
        (∃ f', (t.view v).fillingWith i n = some f' ∧
            f' =
              { f with
                fillPoint := o + 16
                gap := f.gap || decide (f.fillPoint < o)
                signature := (((f.signature.rotateLeft 1) ^^^ p0.word).rotateLeft 1) ^^^ p1.word
                tiles := f'.tiles } ∧
            ∀ m : Nat, f'.tiles[m]? = f.tiles[m]?.map fun x => added (o / 8 + 1) p1 m (added (o / 8) p0 m x)) ∧
          (∀ j, j ≠ i → (t.view v).slots[j]? = (s1.view v).slots[j]?) ∧
          (t.view v).burst =
            (if u.left = 1 then none
            else some { b with nextOffset := o + 16, lastFill := o + 16, half := m.2 }) ∧
          (∃ sent, SendsBeat b.tag m.1 s1 t sent ∧ TakesBeat u false true s1 t sent) ∧
          t.path = { s1.path with writes := t.path.writes, readyW := t.path.readyW, downW := t.path.downW } ∧
          (t.view v).captureLatch = (if f.fillPoint = 0 then { latch with awaiting := false } else latch) ∧
          GivesIf (f.fillPoint = 0 ∧ latch.awaiting = true) (entryIndex .emptyFrame v) .pass s t ∧
          (f.fillPoint ≠ 0 → t.faults = s.faults) ∧ OnlyEvidence s t ∧
          OnlyChanges [.path, viewPart v, .faults, .report, .statusWriter, .history] s t ∧ MarksStatus s t)

/-- Any other beat of a capture burst develops nothing and moves no fill point, whatever the view's state, the burst's
first and last beat among them. A beat outside the run, and every beat of an unframed or unslotted burst, makes
ORDER_BREACH occur with its reason; a beat without all strobes cuts the burst, and it and every later beat of a cut
burst, or of a run whose frame has been settled, send their half of a memory beat with clear strobes if they lie in the
run; the beats of a stopped burst, and the beats outside the run of a burst that was open at a DETACH (R42), are dropped
without evidence. After the last beat CAPTURE_REFUSED occurs of a cut burst, and the burst is answered as R34 lists,
when the answer of its memory write has returned if it issued one. When it is answered is DEDUCED in log entry 16, the
order of the evidence in log entry 22, an unaligned start in log entry 15; that beats are sent at once is the model's
choice (log entry 13), as are the fill point that judges a beat taken after its frame has completed, and that a cut
slot-bound burst gives no ORDER_BREACH outside its run (log entry 43). -/
def Obligations.CaptureBeatOutsideRunIsDropped : Prop :=
  (∀ (data : Beat) (strb : Strobes) (s : State) (u : UpWrite) (v : Side) (base : Addr) (whileStopped : Bool)
    (b : OpenBurst),
    TagsOk s → FaultsOk s → s.path.dataOwner = some u → u.cls = .capture v base whileStopped →
    let s1 := if u.left = u.a.len then s.openBurst v u base whileStopped else s
    (s1.view v).burst = some b →
    let x := s1.view v
    let o := b.nextOffset
    let whole : Bool := strb == BitVec.allOnes 16 && (u.left != u.a.len || u.a.addr.toNat % 16 == 0)
    let cut : Option Nat := if b.binding = .stopped then none else b.cut.or (if whole then none else some o)
    let inside : Bool := b.run.any fun r => decide (r.1 ≤ o) && decide (o ≤ r.2)
    let developed : Bool :=
      match b.binding with
      | .slot i n => cut.isNone && inside && (x.fillingWith i n).isSome
      | _ => false
    developed = false →
    Completes (.captureBeat data strb) s fun t =>
      let m : Option BeatOut × Option (Option (BitVec 64)) :=
        match b.binding, b.run with
        | .slot _ _, some (_, last) => if inside then memoryBeat b.half o last none else (none, b.half)
        | _, _ => (none, b.half)
      let breach (c : Prop) (reason fill : Nat) (n : Option (BitVec 32)) : Prop :=
        GivesIf c (entryIndex .orderBreach v) (.fail (detailOrderBreach reason o fill) n s.timebase) s t
      t.view v =
          { x with
            burst :=
              if u.left = 1 then none else some { b with nextOffset := o + 16, cut := cut, half := m.2 } } ∧
        (∃ sent, SendsBeat b.tag m.1 s1 t sent ∧ TakesBeat u cut.isSome b.run.isSome s1 t sent) ∧
        t.path = { s1.path with writes := t.path.writes, readyW := t.path.readyW, downW := t.path.downW } ∧
        (match b.binding with
        | .stopped => t.fault (entryIndex .orderBreach v) = s.fault (entryIndex .orderBreach v)
        | .unframed => breach (whileStopped = false) 2 0 none
        | .unslotted n => breach (whileStopped = false) 3 0 n
        | .slot i n =>
          match x.fillingWith i n with
          | some f =>
            breach (whileStopped = false ∧ cut = none ∧ inside = false) (if o < f.fillPoint then 0 else 1) f.fillPoint
              (some n)
          | none =>
            breach (whileStopped = false ∧ cut = none ∧ inside = false) (if o < b.openFill then 0 else 1) b.lastFill
              (some n)) ∧
        GivesIf (u.left = 1 ∧ cut.isSome = true) (entryIndex .captureRefused v)
          (.fail (detailCaptureRefused 0 u.a.id (cut.getD 0))
            (match b.binding with
            | .slot _ n => some n
            | _ => none) s.timebase) s t ∧
        (∀ j, j ≠ entryIndex .orderBreach v → j ≠ entryIndex .captureRefused v → j ≠ 25 → t.fault j = s.fault j) ∧
        OnlyEvidence s t ∧ OnlyChanges [.path, viewPart v, .faults, .report, .statusWriter, .history] s t ∧
        MarksStatus s t) ∧
    ∀ (v : Side) (r : Resp) (s : State) (d : DownWrite) (i : Nat) (n : BitVec 32) (u : UpWrite), r ≠ .exokay →
      TagsOk s → s.path.answeredWrite (viewBusId v) = some d → d.owner = .dev v i n → s.path.writeOf d.tag = some u →
      Completes (.downstreamWriteResponse v r) s fun t =>
        let answer : Resp := if r = .okay then .okay else .slverr
        let told := s.path.writes.map fun w => if w.tag = u.tag then { w with downResp := some answer } else w
        let final : Resp := if u.cut then .slverr else answer
        if u.left ≠ 0 then t.out = [] ∧ t.path.writes = told
        else if s.path.firstWrite u.a.id = some u then
          t.out = [.upResponse u.a.id final] ∧ t.path.writes = s.path.writes.filter fun w => w.tag != u.tag
        else t.out = [] ∧ t.path.writes = told.map fun w => if w.tag = u.tag then { w with ready := some final } else w

/-- The development of a pixel blends its exposures as R37 states: the long exposure alone up to the knee, the scaled
short exposure alone 256 codes above it, a value of at most 131,040 between; in the blend zone a short sample at or
below the black level darkens the pixel. Its luma is the tone map of that value. -/
def Obligations.MergeBlendsExposures : Prop :=
  ∀ (p : Snapshot) (yl ys : Nat), yl ≤ 4095 → ys ≤ 4095 → p.black ≤ 255 →
    p.ratio = 4 ∨ p.ratio = 8 ∨ p.ratio = 16 ∨ p.ratio = 32 → 1024 ≤ p.knee → p.knee ≤ 3839 →
    let l : Int := max ((yl : Int) - p.black) 0
    let sh : Int := max ((ys : Int) - p.black) 0
    let w : Int := min (max ((yl : Int) - p.knee) 0) 256
    let e := mergeExposures p yl ys
    (e : Int) = (l * (256 - w) + sh * p.ratio * w + 128) / 256 ∧ e ≤ 131040 ∧ (yl ≤ p.knee → (e : Int) = l) ∧
      (p.knee + 256 ≤ yl → (e : Int) = sh * p.ratio) ∧ (yl = 4095 → w = 256) ∧
      (e = 131040 ↔ p.black = 0 ∧ ys = 4095 ∧ p.ratio = 32 ∧ w = 256) ∧ (ys ≤ p.black → p.knee < yl → (e : Int) < l) ∧
      developPixel p yl ys = { luma := toneMap p e, merged := e }

/-- The tone map of R38: compression into 12 bits, the segment and its fraction, the interpolation with the floor toward
minus infinity, the bounds of the result and the corners the rule names. -/
def Obligations.ToneMapInterpolatesCurve : Prop :=
  ∀ (p : Snapshot) (e : Nat), p.curve.length = 65 → (∀ y ∈ p.curve, y ≤ 255) → p.shift ≤ 5 → e ≤ 131040 →
    let e' := min (e / 2 ^ p.shift) 4095
    let i := e' / 64
    let f := e' % 64
    ∀ a d : Nat, p.curve[i]? = some a → p.curve[i + 1]? = some d →
      let y := toneMap p e
      i ≤ 63 ∧ f ≤ 63 ∧ (y : Int) = a + ((d - a : Int) * f + 32) / 64 ∧ min a d ≤ y ∧ y ≤ max a d ∧ y ≤ 255 ∧
        (p.shift = 0 → 4095 < e → e' = 4095) ∧ (p.shift = 5 → e' = e / 32) ∧
        (e' = 4095 → i = 63 ∧ f = 63 ∧ (y : Int) = a + ((d - a : Int) * 63 + 32) / 64 ∧
          (y = d ↔ -31 ≤ (d - a : Int) ∧ (d - a : Int) ≤ 32)) ∧
        (a = d → y = a) ∧ (f = 0 → y = a) ∧ (d < a → f = 63 → (y = d ↔ a - d ≤ 31))

/-! ## The memory port (chapter 10) -/

/-- On each address channel the arbiter grants the oldest ready forwarded request unless an own request has waited for 8
forwarded grants, and counts the grant while an own request waits; the oldest own request of the channel is granted when
no forwarded request is ready, and in any case at 8, and the count restarts. Results go out with the image as it stands
then (DEDUCED, log entry 23), as the record of R181; the oldest ready request is the first of the queue whose upstream
ID holds no earlier one back (DEDUCED, log entry 31). The data of a granted write stands behind that of the writes
granted before it, for an own write all of it. That the data a granted write has ready is sent in the event of the
grant, the port's data channel always ready, is the model's choice (log entry 13). -/
def Obligations.ArbiterGrantsRequests : Prop :=
  (∀ x : ResultImage,
    let code : Nat :=
      match x.code with
      | .noneYet => 0
      | .done => 1
      | .accepted => 2
      | .busy => 3
      | .badArgument => 4
      | .notStopped => 5
      | .already => 6
      | .nothingShown => 7
      | .locked => 8
      | .stillActive => 9
      | .notAttached => 10
      | .failed => 11
    Holds [x.record] 1 [(0, 4, x.issue.toNat), (4, 1, code), (5, 3, 0), (8, 8, x.detail.toNat)]) ∧
  (drainWrites [] = ([], []) ∧
    ∀ (d : DownWrite) (ds : List DownWrite),
      drainWrites (d :: ds) =
        if d.unsent ≤ d.buffer.length then
          ({ d with unsent := 0, buffer := d.buffer.drop d.unsent } :: (drainWrites ds).1,
            (d.buffer.take d.unsent).map (.downWriteBeat d.a.id) ++ (drainWrites ds).2)
        else ({ d with unsent := d.unsent - d.buffer.length, buffer := [] } :: ds, d.buffer.map (.downWriteBeat d.a.id))) ∧
  (∀ (s : State) (i : Nat) (r : Region), s.table[i]? = some (some r) → r.kind = .control →
    (∀ (j : Nat) (r' : Region), j < i → s.table[j]? = some (some r') → r'.kind ≠ .control) →
    s.controlBase = r.base.toNat) ∧
  ∀ (ch : Channel) (s : State),
    let count (p : Path) : Nat :=
      match ch with
      | .write => p.countW
      | .read => p.countR
    let own := s.path.own.find? fun r => decide (r.src = .fetch ↔ ch = .read)
    let unresolved (u : UpWrite) : Prop :=
      (∃ d ∈ s.path.readyW, d.tag = u.tag) ∨ (u.left = u.a.len ∧ ∃ v b, u.cls = .capture v b false)
    let ready (d : DownWrite) : Prop :=
      ∀ u ∈ s.path.writes.takeWhile (fun u => u.tag != d.tag), u.a.id = d.upId → ¬unresolved u
    let forwarded : Prop :=
      match ch with
      | .write => ∃ d ∈ s.path.readyW, ready d
      | .read => s.path.readyR ≠ []
    let sends (d : DownWrite) (s t : State) : Prop :=
      t.path.downW = (drainWrites (s.path.downW ++ [d])).1 ∧
        t.out = .downWriteAddress d.a :: (drainWrites (s.path.downW ++ [d])).2
    let starved : Prop := own.isSome = true ∧ 8 ≤ count s.path
    (starved ∨ ¬forwarded → Stays (.forwardedRequestGrant ch) s) ∧
      (¬starved → forwarded →
        Completes (.forwardedRequestGrant ch) s fun t =>
          count t.path = (if own.isSome then count s.path + 1 else count s.path) ∧ t.path.own = s.path.own ∧
            (match ch with
            | .write =>
              ∃ d, FirstOf ready s.path.readyW d ∧ sends d s t ∧
                t.path.readyW = s.path.readyW.eraseP (fun e => e.tag == d.tag) ∧
                t.path.downR = s.path.downR ∧ t.path.countR = s.path.countR
            | .read =>
              ∃ d, s.path.readyR = d :: t.path.readyR ∧ t.out = [.downReadAddress d.a] ∧
                t.path.downR = s.path.downR ++ [d] ∧ t.path.downW = s.path.downW ∧ t.path.countW = s.path.countW) ∧
            t.path.writes = s.path.writes ∧ t.path.reads = s.path.reads ∧ OnlyChanges [.path] s t ∧ MarksStatus s t) ∧
      (own = none ∨ (¬starved ∧ forwarded) → Stays (.ownRequestGrant ch) s) ∧
      ∀ r, own = some r → starved ∨ ¬forwarded →
        Completes (.ownRequestGrant ch) s fun t =>
          count t.path = 0 ∧ t.path.own = s.path.own.eraseP (fun e => e.src == r.src) ∧
            (match ch with
            | .read =>
              t.out = [.downReadAddress { id := 0x3D, addr := r.addr, len := r.len, size := 4, burst := .incr, excl := false }] ∧
                t.path.downR =
                  s.path.downR ++
                    [{ owner := .own, tag := 0
                       a := { id := 0x3D, addr := r.addr, len := r.len, size := 4, burst := .incr, excl := false }
                       unreturned := r.len }] ∧
                t.path.downW = s.path.downW
            | .write =>
              let target : Addr × List BeatOut :=
                match r.src with
                | .immediateResult => (BitVec.ofNat 36 (s.controlBase + 32), [.full s.attach.immediate.record])
                | .completionResult => (BitVec.ofNat 36 (s.controlBase + 48), [.full s.attach.completion.record])
                | _ => (r.addr, r.data)
              let a : AddrPhase :=
                { id := 0x3D, addr := target.1, len := target.2.length, size := 4, burst := .incr, excl := false }
              sends
                { owner := .own r.src, tag := 0, upId := 0x3D, a := a, unsent := target.2.length, buffer := target.2 } s t ∧
                t.path.downR = s.path.downR) ∧
            t.path.readyW = s.path.readyW ∧ t.path.readyR = s.path.readyR ∧ t.path.writes = s.path.writes ∧
            t.path.reads = s.path.reads ∧ OnlyChanges [.path] s t ∧ MarksStatus s t

/-- The answer to a development write is counted only while its slot is FILLING with its frame: an error then sets the
gap flag, the count falls by one, and with a full fill point and no write left the frame completes: a gapped frame's
slot becomes FREE, a gap-free one READY. Any other answer changes no slot. An error makes MEMORY_ERROR occur either way.
The upstream response is stated in CaptureBeatOutsideRunIsDropped. -/
def Obligations.DevelopmentResponsesAreCounted : Prop :=
  (∀ v : Side, viewBusId v = match v with
    | .left => 0x3E
    | .right => 0x3F) ∧
  (∀ (x : View) (i : Nat) (n : BitVec 32) (f : Frame),
    x.fillingWith i n = some f ↔
      ∃ sl, x.slots[i]? = some sl ∧ sl.state = .filling ∧ sl.frame = some f ∧ f.sequence = n) ∧
  (∀ (v : Side) (r : Resp) (s : State) (d : DownWrite) (i : Nat) (n : BitVec 32), r ≠ .exokay → FaultsOk s →
    s.path.answeredWrite (viewBusId v) = some d → d.owner = .dev v i n →
    Completes (.downstreamWriteResponse v r) s fun t =>
      let x := s.view v
      let y := t.view v
      let error : Bool := decide (r = .slverr ∨ r = .decerr)
      t.path.downW = s.path.downW.eraseP (fun e => e.a.id == viewBusId v) ∧
        (error = true → Occurs 23 (detailAddress 0 (viewByte v) d.a.addr) s t) ∧
        (match x.slots[i]?, x.fillingWith i n with
        | some sl, some f =>
          let f' := { f with gap := f.gap || error, writes := f.writes - 1 }
          if f.fillPoint = (s.geometry v).w * (s.geometry v).h * 4 ∧ f.writes ≤ 1 then
            y.capture = .none ∧
              if f'.gap then y.slots[i]? = some { sl with state := .free, pinRequest := false, frame := none }
              else y.slots[i]? = some { sl with state := .ready, frame := some f' }
          else y.capture = x.capture ∧ y.slots[i]? = some { sl with frame := some f' } ∧ t.ladder = s.ladder ∧
            y.level = x.level ∧ y.levelValid = x.levelValid
        | _, _ => t.views = s.views ∧ t.ladder = s.ladder) ∧
        (∀ j, j ≠ i → y.slots[j]? = x.slots[j]?) ∧ y.shown = x.shown ∧ y.pan = x.pan ∧ y.glare = x.glare ∧
        OnlyEvidence s t ∧
        OnlyChanges [.path, viewPart v, .ladder, .faults, .report, .statusWriter, .history] s t ∧ MarksStatus s t)

/-- The response that completes a frame gives the evidence of R12 and R48. A gapped frame gives GAPPED_FRAME a fail and
changes neither signature, level nor ladder. A READY one gives FROZEN_FEED a fail or a pass by the last signature, which
it replaces; its mean developed luma becomes the view's level; the ladder takes exactly the transition of R76 and R77
for the level of R74, and a pending condition runs as R77 says; and in DAY, VIEW_BLOCKED is judged by R51, in the mode
that the ladder holds after both the level and a HOLD_MODE that arrived with the completion (R54); that a HOLD_MODE
arrives with it when it is in hand is the model's choice (log entry 33). The entries and their kinds are those of R116
and R117. Evidence itself is debounced, healed, reported and placed in the store queue by R119 to R126, and a request
that a DISABLED store discards gives STORE_FAULT a further fail (R147) and leaves its stored flag clear, also where it
was set (DEDUCED, log entry 44); the order of the pieces of evidence is DEDUCED (log entry 22). -/
def Obligations.ReadyFrameIsEvaluated : Prop :=
  (∀ (v : Side) (r : Resp) (s : State) (d : DownWrite) (i : Nat) (n : BitVec 32) (f : Frame), r ≠ .exokay →
    FaultsOk s → BlankingOk s → (s.view v).live = true →
    s.path.answeredWrite (viewBusId v) = some d → d.owner = .dev v i n → (s.view v).fillingWith i n = some f →
    f.fillPoint = (s.geometry v).w * (s.geometry v).h * 4 → f.writes ≤ 1 →
    Completes (.downstreamWriteResponse v r) s fun t =>
      let x := s.view v
      let y := t.view v
      let c := s.ladderFields
      let gives (k : ViewKind) (ev : Evidence) : Prop := Gives (entryIndex k v) ev s t
      let untouched (k : ViewKind) : Prop := t.fault (entryIndex k v) = s.fault (entryIndex k v)
      gives .shortFrame .pass ∧
      if f.gap = true ∨ r ≠ .okay then
        gives .gappedFrame (.fail 0 (some f.sequence) s.timebase) ∧ untouched .frozenFeed ∧ untouched .viewBlocked ∧
          t.ladder = s.ladder ∧ y.lastSignature = x.lastSignature ∧ y.level = x.level ∧ y.levelValid = x.levelValid
      else
        gives .gappedFrame .pass ∧
          (match x.lastSignature with
          | none => untouched .frozenFeed
          | some g =>
            gives .frozenFeed
              (if f.signature = g then .fail (detailWord 0 g.toNat) (some f.sequence) s.timebase else .pass)) ∧
          y.lastSignature = some f.signature ∧ y.levelValid = true ∧
          y.level = (f.tiles.map Tile.lumaSum).sum / ((s.geometry v).w * (s.geometry v).h) ∧
          y.state =
            (if x.state = .starting then .starting else if t.safetyActive v then .blanked else .running) ∧
          (let o := s.view (other v)
          let mine : List Nat := if y.state = .running then [y.level] else []
          let others : List Nat := if o.state = .running ∧ o.levelValid = true then [o.level] else []
          let now := s.timebase
          let cleared : Ladder := { s.ladder with pending := none }
          let goes (m : Mode) : Ladder := { s.ladder with mode := m, pending := none }
          let waits (k : Candidate) (m : Mode) (dwell : Nat) : Ladder :=
            let since : Time :=
              match s.ladder.pending with
              | some (k', t0) => if k' = k then t0 else now
              | none => now
            let n := (now - since).toNat
            if 2 ^ 31 ≤ n ∨ dwell * 1000 ≤ n then goes m else { s.ladder with pending := some (k, since) }
          t.ladder =
              (if s.ladder.hold.isSome = true then cleared
              else
                match (mine ++ others).max? with
                | none => cleared
                | some l =>
                  match s.ladder.mode with
                  | .day => if l < c.duskEnter then waits .dayToDusk .dusk c.dwellDown else cleared
                  | .dusk =>
                    if c.dayForce ≤ l then goes .day
                    else if l < c.nightEnter then waits .duskToNight .night c.dwellDown
                    else if c.duskExit ≤ l then waits .duskToDay .day c.dwellUp
                    else cleared
                  | .night =>
                    if c.dayForce ≤ l then goes .day
                    else if c.nightExit ≤ l then waits .nightToDusk .dusk c.dwellUp
                    else cleared) ∧
            (let tilePixels := ((s.geometry v).w / 16) * ((s.geometry v).h / 8)
            let mode : Mode :=
              match s.attach.inHand.map fun h : Handover => h.record.command with
              | some (.holdMode m) =>
                if m = 0 then .day else if m = 1 then .dusk else if m = 2 then .night else t.ladder.mode
              | _ => t.ladder.mode
            let dark := (f.tiles.filter fun q => decide (q.lumaSum / tilePixels < (s.limits v).darkLevel)).length
            if mode = .day then
              gives .viewBlocked
                (if (s.limits v).blockedTiles ≤ dark ∧ o.state = .running ∧ o.levelValid = true ∧ c.duskExit ≤ o.level then
                  .fail (detailBytes dark y.level o.level) (some f.sequence) s.timebase
                else .pass)
            else untouched .viewBlocked))) ∧
    (∀ v : Side,
      [.frozenFeed, .staleImage, .lateFrame, .gappedFrame, .shortFrame, .emptyFrame, .displayIdle, .viewBlocked,
          .orderBreach, .captureRefused, .glareOverflow].map (entryIndex · v) =
        match v with
        | .left => [0, 2, 4, 6, 8, 10, 12, 14, 16, 18, 20]
        | .right => [1, 3, 5, 7, 9, 11, 13, 15, 17, 19, 21]) ∧
    (∀ i, i < 26 →
      (isSafety i = true ↔ i ∈ [0, 1, 2, 3]) ∧ (isEvent i = true ↔ i ∈ [16, 17, 18, 19, 20, 21, 22, 23, 24]) ∧
        (isStored i = false ↔ i ∈ [16, 17, 18, 19, 20, 21, 24]) ∧
        entrySide i = if 22 ≤ i then none else if i % 2 = 0 then some .left else some .right) ∧
    ∀ (i : Nat) (ev : Evidence) (s : State), i < 26 → s.faults.length = 26 →
      (s.history.disabled = true → s.history.queue = []) →
      let t := s.evidence i ev
      (isMuted i s → t = s) ∧
        (¬isMuted i s →
          let e := s.fault i
          let made := (judged e s.counts i ev).2
          let reported := made.isSome = true
          let queued : Bool := made.any (confirms i) && !s.history.queue.contains i && !(e.confirmed && e.stored)
          let discarded (c : Bool) (x : FaultEntry) : FaultEntry := if c then { x with stored := false } else x
          let after : FaultEntry := discarded (queued && s.history.disabled) (afterEvidence e s.counts i ev)
          (∀ j, j ≠ 25 → t.fault j = if j = i then after else s.fault j) ∧
            (s.history.disabled = true →
              let further : Evidence := .fail (detailBytes 3 0xFF 0) none s.timebase
              let f0 := if i = 25 then after else s.fault 25
              let f1 := afterEvidence f0 s.counts 25 further
              let again : Bool :=
                (judged f0 s.counts 25 further).2.any (confirms 25) && !(f0.confirmed && f0.stored)
              t.history = s.history ∧
                t.fault 25 =
                  (if queued then
                    if again then afterEvidence (discarded true f1) s.counts 25 further else f1
                  else f0)) ∧
            (s.history.disabled = false →
              (∀ j, t.fault j = if j = i then afterEvidence e s.counts i ev else s.fault j) ∧
                t.history = { s.history with queue := if queued then s.history.queue ++ [i] else s.history.queue } ∧
                t.report.backlog =
                  (if reported ∧ e.pending = none then s.report.backlog ++ [i] else s.report.backlog) ∧
                t.report.flight =
                  (if reported then s.report.flight.map fun f => if f.entry = i then { f with overtaken := true } else f
                  else s.report.flight) ∧
                t.report.held = (if reported ∧ i ≠ 23 then false else s.report.held) ∧
                t.report.status.suspended = (if reported ∧ i ≠ 23 then false else s.report.status.suspended)) ∧
            (∀ v : Side, t.view v =
              if reported ∧ i < 4 ∧ i % 2 = sideIndex v ∧ ((s.view v).state = .running ∨ (s.view v).state = .blanked) then
                { s.view v with state := if t.safetyActive v then .blanked else .running }
              else s.view v) ∧
            OnlyChanges [.viewLeft, .viewRight, .faults, .report, .statusWriter, .history] s t ∧ OnlyEvidence s t)

/-- The data of a view read piece is held for its burst; after the burst's last piece the charged slot's count falls by
one, and a DRAINING slot left with none becomes FREE; the other slots and the rest of the view stay. An error makes
MEMORY_ERROR occur and marks the burst. -/
def Obligations.ReadPiecesAreHeld : Prop :=
  ∀ (v : Side) (beats : List RBeat) (s : State) (d : DownRead) (u : UpRead) (rec : ReadRecord),
    (Instr.readPieceReturn v beats).wellFormed = true → FaultsOk s → TagsOk s →
    s.path.answeredRead (viewBusId v) = some d → d.owner = .piece v → d.unreturned = beats.length →
    u ∈ s.path.reads → u.tag = d.tag → u.cls = .view rec → rec.view = v →
    Completes (.readPieceReturn v beats) s fun t =>
      let error : Bool := beats.any fun b => decide (b.resp = .slverr ∨ b.resp = .decerr)
      t.path.downR = s.path.downR.eraseP (fun e => e.a.id == viewBusId v) ∧
        (error = true → Occurs 23 (detailAddress 1 (viewByte v) d.a.addr) s t) ∧
        (error = false → t.faults = s.faults) ∧
        (∃ u' ∈ t.path.reads, u'.tag = u.tag ∧ u'.a = u.a ∧
          u'.cls = .view
            { rec with
              outstanding := rec.outstanding - 1
              held := rec.held ++ beats.map RBeat.data
              error := rec.error || error }) ∧
        (match rec.charged with
        | some i =>
          if rec.outstanding ≤ 1 then
            t.view v = { s.view v with slots := (t.view v).slots } ∧
              (∀ j, j ≠ i → (t.view v).slots[j]? = (s.view v).slots[j]?) ∧
              ∀ sl, (s.view v).slots[i]? = some sl →
                (t.view v).slots[i]? = some
                  (if sl.state = .draining ∧ sl.reads ≤ 1 then
                    { sl with state := .free, pinRequest := false, reads := 0, frame := none }
                  else { sl with reads := sl.reads - 1 })
          else t.view v = s.view v
        | none => t.view v = s.view v) ∧
        t.out = [] ∧ OnlyEvidence s t ∧
        OnlyChanges [.path, viewPart v, .faults, .report, .statusWriter, .history] s t ∧ MarksStatus s t

/-- The oldest read burst of an upstream ID, if it is a view read with no piece outstanding, is returned whole: a
refused one as the pattern with SLVERR, a pattern one as the pattern with OKAY, a forwarded one as the dimmed slot data
with OKAY if the view is RUNNING, has not been started since and no piece was in error, and as the pattern with the
burst's worst response otherwise. Each word is dimmed by the gain of its pair's tile: that of the tile's entry in the
glare list, and 256 for a tile not listed (R67, R84). After a DETACH the pattern word is that of the settings kept
(DEDUCED, log entry 24). Any other read is not released here. -/
def Obligations.ViewReadsAreReleased : Prop :=
  ∀ (id : BusId) (s : State),
    match s.path.firstRead id with
    | none => Stays (.viewReadRelease id) s
    | some u =>
      match u.cls with
      | .view r =>
        if r.outstanding = 0 then
          Completes (.viewReadRelease id) s fun t =>
            t.path = { s.path with reads := s.path.reads.filter fun w => w.tag != u.tag } ∧
              (let word := (s.flipFields r.view).pattern
              let pattern (resp : Resp) : List PortEvent :=
                [.upData id (List.replicate u.a.len { data := word ++ word ++ word ++ word, resp := resp })]
              match r.kind with
              | .refused => t.out = pattern .slverr
              | .pattern => t.out = pattern .okay
              | .forwarded =>
                if (s.view r.view).state ≠ .running ∨ r.restarted = true ∨ r.error = true then
                  t.out = pattern (if r.error then .slverr else .okay)
                else
                  let g := s.geometry r.view
                  let gain (k : Nat) : Nat :=
                    let x := 2 * (k % (g.w / 2))
                    let y := k / (g.w / 2)
                    let tile := y / (g.h / 8) * 16 + x / (g.w / 16)
                    (((s.view r.view).glare.find? fun e => e.tile == tile).map GlareEntry.gain).getD 256
                  let dimmed (q : Nat) (b : Beat) (k : Nat) : BitVec 32 :=
                    dimWord (s.flipFields r.view).protect (gain (q / 4 + k)) (b.extractLsb' (32 * k) 32)
                  let offsets := r.pieces.flatMap fun p => (List.range p.len).map fun k => p.slotOffset + 16 * k
                  t.out = [.upData id ((List.zip offsets r.held).map fun qb =>
                    { data := dimmed qb.1 qb.2 3 ++ dimmed qb.1 qb.2 2 ++ dimmed qb.1 qb.2 1 ++ dimmed qb.1 qb.2 0
                      resp := .okay })]) ∧
              OnlyChanges [.path] s t ∧ MarksStatus s t
        else Stays (.viewReadRelease id) s
      | _ => Stays (.viewReadRelease id) s

/-- While a SAFETY entry of a view is ACTIVE, every read of its aperture that is released carries nothing but the
pattern word in force; after a DETACH, that of the settings kept (DEDUCED, log entry 24). -/
def Obligations.UnsafeViewsReturnOnlyThePattern : Prop :=
  ∀ (id : BusId) (s t : State) (u : UpRead) (r : ReadRecord), BlankingOk s →
    s.path.firstRead id = some u → u.cls = .view r → s.safetyActive r.view = true →
    exec (.viewReadRelease id) s = .next t →
    ∀ (id' : BusId) (beats : List RBeat) (b : RBeat), .upData id' beats ∈ t.out → b ∈ beats →
      ∀ k : Nat, k < 4 → b.data.extractLsb' (32 * k) 32 = (s.flipFields r.view).pattern

/-- Dimming of a developed word (R67): each luma above the protect level keeps between the protect level and itself, by
the tile's gain; one at or below it, and any under a gain of 256, is unchanged. -/
def Obligations.DimmedLumaIsBounded : Prop :=
  ∀ (protect gain : Nat) (w : BitVec 32), 128 ≤ protect → protect ≤ 254 → 64 ≤ gain → gain ≤ 256 →
    ∀ k : Nat, k = 0 ∨ k = 2 →
      let y := (byteOf w k).toNat
      let z := (byteOf (dimWord protect gain w) k).toNat
      z = (if y ≤ protect then y else protect + ((y - protect) * gain + 128) / 256) ∧ min y protect ≤ z ∧ z ≤ y ∧
        (gain = 256 → z = y)

/-- The chroma of a dimmed word (R68). -/
def Obligations.ChromaIsDimmedWithTheLuma : Prop :=
  ∀ (protect gain : Nat) (w : BitVec 32), 128 ≤ protect → protect ≤ 254 → 64 ≤ gain → gain ≤ 256 →
    ∀ k : Nat, k = 1 ∨ k = 3 →
      let y0 := (byteOf w 0).toNat
      let y1 := (byteOf w 2).toNat
      let c := (byteOf w k).toNat
      let z := (byteOf (dimWord protect gain w) k).toNat
      (if protect < y0 ∨ protect < y1 then (z : Int) = 128 + (((c : Int) - 128) * gain + 128) / 256 else z = c) ∧
        min 128 c ≤ z ∧ z ≤ max 128 c ∧ (gain = 256 → z = c)

/-- A memory answer to plain or control traffic goes upstream unchanged, in its ID's order. The OKAY of a covering write
of the command record is kept back for its handover; that of a covering write of the anchor record while TRANSPARENT
leaves a copy to be examined. That the copy is kept until its own row (log entry 5) and the carrying write until
COMMAND_HANDOVER (log entry 4) is the model's choice, and so is that EXOKAY keeps neither copy (log entry 5). Read data
of a burst whose turn has not come, or that has data still held, is held behind it. -/
def Obligations.PlainAnswersPassUnchanged : Prop :=
  ∀ (id : BusId) (s : State), TagsOk s →
    (∀ (r : Resp) (d : DownWrite) (u : UpWrite), s.path.answeredWrite id = some d → d.owner = .plain →
      s.path.writeOf d.tag = some u →
      Completes (.plainMemoryResponse (.write id r)) s fun t =>
        t.path.downW = s.path.downW.eraseP (fun e => e.a.id == id) ∧ t.faults = s.faults ∧
          (if r = .okay ∧ u.covers = true ∧ u.cls = .control ∧ s.attach.state = .attached then
            t.out = [] ∧ t.path.writes = s.path.writes ∧
              t.attach = { s.attach with
                handovers := s.attach.handovers ++ [{ tag := u.tag, record := commandRecord u.copy }] }
          else
            (if s.path.firstWrite u.a.id = some u then
              t.out = [.upResponse u.a.id r] ∧ t.path.writes = s.path.writes.filter fun w => w.tag != u.tag
            else t.out = [] ∧ ∃ w ∈ t.path.writes, w = { u with ready := some r }) ∧
              t.attach =
                if r = .okay ∧ u.covers = true ∧ u.cls = .plain ∧ s.attach.state = .transparent then
                  { s.attach with anchorCopies := s.attach.anchorCopies ++ [u.copy.setWidth 128] }
                else s.attach) ∧
          OnlyChanges [.path, .attach] s t ∧ MarksStatus s t) ∧
      ∀ (b : RBeat) (d : DownRead) (u : UpRead), s.path.answeredRead id = some d → d.owner = .plain →
        s.path.readOf d.tag = some u →
        Completes (.plainMemoryResponse (.read id b)) s fun t =>
          t.path.downR.length = (if d.unreturned ≤ 1 then s.path.downR.length - 1 else s.path.downR.length) ∧
            (if s.path.firstRead u.a.id = some u ∧ u.held = [] then
              t.out = [.upData u.a.id [b]] ∧
                if u.a.len ≤ u.passed + 1 then t.path.reads = s.path.reads.filter fun w => w.tag != u.tag
                else ∃ w ∈ t.path.reads, w = { u with passed := u.passed + 1 }
            else t.out = [] ∧ ∃ w ∈ t.path.reads, w = { u with held := u.held ++ [b] }) ∧
            OnlyChanges [.path] s t ∧ MarksStatus s t

/-- A response or read data held behind earlier bursts of its upstream ID is returned unchanged once its burst is the
oldest of that ID; until then, and where nothing is held, nothing is returned. -/
def Obligations.HeldResponsesAreReturnedInOrder : Prop :=
  (∀ (p : Path) (id : BusId) (tag : Nat),
    (∀ u, p.firstWrite id = some u ↔ FirstOf (fun w => w.a.id = id) p.writes u) ∧
      (∀ u, p.firstRead id = some u ↔ FirstOf (fun w => w.a.id = id) p.reads u) ∧
      (∀ u, p.writeOf tag = some u ↔ FirstOf (fun w => w.tag = tag) p.writes u) ∧
      ∀ u, p.readOf tag = some u ↔ FirstOf (fun w => w.tag = tag) p.reads u) ∧
  (∀ (id : BusId) (s : State), TagsOk s →
    Completes (.heldResponseRelease .write id) s (fun t =>
      (match s.path.firstWrite id with
      | some u =>
        match u.ready with
        | some r =>
          t.out = [.upResponse id r] ∧ t.path = { s.path with writes := s.path.writes.filter fun w => w.tag != u.tag }
        | none => t.out = [] ∧ t.path = s.path
      | none => t.out = [] ∧ t.path = s.path) ∧
        OnlyChanges [.path] s t ∧ MarksStatus s t) ∧
      Completes (.heldResponseRelease .read id) s (fun t =>
        (match s.path.firstRead id with
        | some u =>
          if u.held = [] then t.out = [] ∧ t.path = s.path
          else
            t.out = [.upData id u.held] ∧
              if u.a.len ≤ u.passed + u.held.length then
                t.path = { s.path with reads := s.path.reads.filter fun w => w.tag != u.tag }
              else ∃ w ∈ t.path.reads, w = { u with held := [], passed := u.passed + u.held.length }
        | none => t.out = [] ∧ t.path = s.path) ∧
          OnlyChanges [.path] s t ∧ MarksStatus s t))

/-! ## The commands of the command record -/

/-- Taking and carrying out are two rows, a copy waits while a command is in hand, and copies left outside ATTACHED are
dropped: the model's choice (log entry 4). The copy whose write was answered first is handed over once no command is in
hand. Outside ATTACHED, and with an issue number of 0 or of the last command taken, it is unused; otherwise it is taken:
DETACH is in hand, another command is refused with BUSY while one is in flight and in hand otherwise. The write that
carried it is then answered OKAY, that of a DETACH when it has been carried out. -/
def Obligations.CommandRecordsAreHandedOver : Prop :=
  ∀ s : State, TagsOk s →
    (s.attach.inHand.isSome = true ∨ s.attach.handovers = [] → Stays .commandHandover s) ∧
      ∀ (h : Handover) (rest : List Handover), s.attach.inHand = none → s.attach.handovers = h :: rest →
        Completes .commandHandover s fun t =>
          (let n := h.record.issue
          if s.attach.state ≠ .attached ∨ n = 0 ∨ n = s.attach.lastIssue then
            t.attach = { s.attach with handovers := rest } ∧ AnswersWrite h.tag .okay s t ∧ WritesOnly s t
          else if h.record.code = 12 then
            t.attach = { s.attach with handovers := rest, lastIssue := n, inHand := some h } ∧ t.path = s.path ∧
              t.out = []
          else if s.attach.inFlight.isSome then
            Posts h .busy (s.setAttach { s.attach with handovers := rest, lastIssue := n }) t ∧
              AnswersWrite h.tag .okay s t ∧ t.path = { s.path with writes := t.path.writes, own := t.path.own }
          else
            t.attach = { s.attach with handovers := rest, lastIssue := n, inHand := some h } ∧
              AnswersWrite h.tag .okay s t ∧ WritesOnly s t) ∧
            OnlyChanges [.attach, .path] s t ∧ MarksStatus s t

/-- A row of the command record takes place only while the command in hand is that command (log entry 4). A command code
that names no command is refused with BAD_ARGUMENT, and so is a RELEASE_PIN whose view field names no view. -/
def Obligations.OnlyTheCommandInHandIsCarriedOut : Prop :=
  (∀ (i : Instr) (s : State), isCommand i = true → (∀ h : Handover, s.attach.inHand = some h → h.record.command ≠ i) →
      Stays i s) ∧
    ∀ (b : Byte) (s : State) (h : Handover),
      (InHand (.unknownCommandCode b) s h → OnlyPosts (.unknownCommandCode b) h .badArgument s) ∧
        (InHand (.releasePin b) s h → b ≠ 0 → b ≠ 1 → OnlyPosts (.releasePin b) h .badArgument s)

/-- START_VIEW puts a STOPPED view in STARTING, with the time of its start, its last signature invalid and nothing
awaited at its strobe latches; its slots, sequence and pan stay, and its reads in flight are marked. A view that is not
STOPPED refuses it with ALREADY. -/
def Obligations.StartViewStartsStoppedViews : Prop :=
  ∀ (b : Byte) (s : State) (h : Handover), InHand (.startView b) s h →
    (b ≠ 0 → b ≠ 1 → OnlyPosts (.startView b) h .badArgument s) ∧
      ∀ v : Side, b = viewByte v →
        if (s.view v).state = .stopped then
          Completes (.startView b) s fun t =>
            Posts h .done s t ∧
              t.view v =
                { s.view v with
                  state := .starting
                  startTime := s.timebase
                  lastSignature := none
                  captureLatch := { (s.view v).captureLatch with awaiting := false }
                  displayLatch := { (s.view v).displayLatch with awaiting := false } } ∧
              t.path =
                { s.path with
                  own := t.path.own
                  reads := s.path.reads.map fun u =>
                    match u.cls with
                    | .view r => if r.view = v then { u with cls := .view { r with restarted := true } } else u
                    | _ => u } ∧
              t.safeLine v = true ∧ OnlyChanges [.attach, .path, viewPart v] s t ∧ MarksStatus s t
        else OnlyPosts (.startView b) h .already s

/-- STOP_VIEW takes the pending parts of a view that is not STOPPED, frees its FILLING and READY slots, takes the SHOWN
one to PINNED, DRAINING or FREE, clears the pointers, the level, the glare list and the staged duty, and leaves the view
STOPPED with its safe line asserted and no evidence given; with both views STOPPED no transition is pending. A STOPPED
view refuses it with ALREADY. -/
def Obligations.StopViewStopsTheView : Prop :=
  ∀ (b : Byte) (s : State) (h : Handover), InHand (.stopView b) s h →
    (b ≠ 0 → b ≠ 1 → OnlyPosts (.stopView b) h .badArgument s) ∧
      ∀ v : Side, b = viewByte v →
        if (s.view v).state = .stopped then OnlyPosts (.stopView b) h .already s
        else
          Completes (.stopView b) s fun t =>
            let x := s.view v
            Posts h .done (s.setAttach { s.attach with current := t.attach.current }) t ∧ OwnQueueOnly s t ∧
              StopLeaves x (t.view v) ∧
              (t.view v).inverted = (match x.pendingFlip with
                | some p => p.inversion
                | none => x.inverted) ∧
              t.attach.current = s.attach.current.map (fun c =>
                { c with
                  views := c.views.set v
                    { c.views.get v with
                      dev := x.pendingDev.getD (c.views.get v).dev
                      flip := x.pendingFlip.getD (c.views.get v).flip } }) ∧
              t.ladder =
                (if (s.view (other v)).state = .stopped then { s.ladder with pending := none } else s.ladder) ∧
              t.safeLine v = true ∧ OnlyChanges [.attach, .path, viewPart v, .ladder] s t ∧ MarksStatus s t

/-- SET_PAN sets the pan target, rounded down in x to a multiple of 8 and clamped on both axes; of a STOPPED view the
origin too. The result is DONE. -/
def Obligations.SetPanSetsTheTarget : Prop :=
  ∀ (b : Byte) (px py : BitVec 16) (s : State) (h : Handover), InHand (.setPan b px py) s h →
    (b ≠ 0 → b ≠ 1 → OnlyPosts (.setPan b px py) h .badArgument s) ∧
      ∀ v : Side, b = viewByte v →
        Completes (.setPan b px py) s fun t =>
          let x := s.view v
          let g := s.geometry v
          let p := (min (px.toNat / 8 * 8) (g.w - g.vw), min py.toNat (g.h - g.vh))
          Posts h .done s t ∧ OwnQueueOnly s t ∧
            t.view v =
              (if x.state = .stopped then { x with pan := p, panTarget := p } else { x with panTarget := p }) ∧
            OnlyChanges [.attach, .path, viewPart v] s t ∧ MarksStatus s t

/-- PIN_FRAME is refused with ALREADY where a slot is PINNED or the SHOWN slot carries the pin request, else with
NOTHING_SHOWN where no slot is SHOWN; otherwise it sets the pin request of the SHOWN slot. -/
def Obligations.PinFrameRequestsThePin : Prop :=
  ∀ (b : Byte) (s : State) (h : Handover), InHand (.pinFrame b) s h →
    (b ≠ 0 → b ≠ 1 → OnlyPosts (.pinFrame b) h .badArgument s) ∧
      ∀ v : Side, b = viewByte v →
        let x := s.view v
        let pinned : Prop :=
          ∃ sl : Slot, sl ∈ x.slots ∧ (sl.state = .pinned ∨ (sl.state = .shown ∧ sl.pinRequest = true))
        (pinned → OnlyPosts (.pinFrame b) h .already s) ∧
          (¬pinned → x.shown = none → OnlyPosts (.pinFrame b) h .nothingShown s) ∧
          ∀ i, ¬pinned → x.shown = some i →
            Completes (.pinFrame b) s fun t =>
              Posts h .done s t ∧ OwnQueueOnly s t ∧ t.view v = { x with slots := (t.view v).slots } ∧
                (t.view v).slots.length = x.slots.length ∧
                (∀ (j : Nat) (sl : Slot), x.slots[j]? = some sl →
                  (t.view v).slots[j]? = some (if j = i then { sl with pinRequest := true } else sl)) ∧
                OnlyChanges [.attach, .path, viewPart v] s t ∧ MarksStatus s t

/-- RELEASE_PIN (R20): the PINNED slot becomes FREE, its frame absent, or DRAINING while reads are outstanding; where no
slot is PINNED the pin request of the SHOWN slot is cleared; where there is neither, the command is refused. -/
def Obligations.ReleasePinReleasesThePin : Prop :=
  ∀ (b : Byte) (s : State) (h : Handover) (v : Side), InHand (.releasePin b) s h → b = viewByte v →
    ViewOk (s.view v) →
    let x := s.view v
    let changes (i : Nat) (sl : Slot) : Prop :=
      Completes (.releasePin b) s fun t =>
        Posts h .done s t ∧ OwnQueueOnly s t ∧ t.view v = { x with slots := (t.view v).slots } ∧
          (t.view v).slots.length = x.slots.length ∧ (t.view v).slots[i]? = some sl ∧
          (∀ j, j ≠ i → (t.view v).slots[j]? = x.slots[j]?) ∧
          OnlyChanges [.attach, .path, viewPart v] s t ∧ MarksStatus s t
    (∀ (i : Nat) (sl : Slot), x.slots[i]? = some sl → sl.state = .pinned →
      changes i
        (if sl.reads = 0 then { sl with state := .free, pinRequest := false, frame := none }
        else { sl with state := .draining })) ∧
      ((∀ sl : Slot, sl ∈ x.slots → sl.state ≠ .pinned) →
        (∀ (i : Nat) (sl : Slot), x.slots[i]? = some sl → sl.state = .shown → sl.pinRequest = true →
          changes i { sl with pinRequest := false }) ∧
        ((∀ sl : Slot, sl ∈ x.slots → sl.state = .shown → sl.pinRequest = false) →
          OnlyPosts (.releasePin b) h .already s))

/-- ACK_REPORTS (R139): a valid count becomes the consume index, a status write is due if the index changed, the
attention line follows, the ring's room counts from the new index, a held writer is released and no record is written
again by it; any other count is refused and leaves the writer held. -/
def Obligations.AckReportsMovesTheConsumeIndex : Prop :=
  ∀ (count : BitVec 32) (s : State) (h : Handover), InHand (.ackReports count) s h →
    if (count - s.report.consume).toNat ≤ (s.report.produce - s.report.consume).toNat then
      Completes (.ackReports count) s fun t =>
        Posts h .done s t ∧ OwnQueueOnly s t ∧ t.ownQueued .record = s.ownQueued .record ∧
          t.report =
            { s.report with
              consume := count
              held := false
              status :=
                { s.report.status with
                  suspended := false, due := t.report.status.due, changed := t.report.status.changed } } ∧
          (count ≠ s.report.consume → t.report.status.due = true) ∧
          (t.attention = true ↔
            s.attach.state = .attached ∧ (∃ c, s.attach.current = some c ∧ c.attention = true) ∧
              s.report.produce ≠ count) ∧
          (t.ringRoom = true ↔ (s.report.produce - count).toNat < 64) ∧
          OnlyChanges [.attach, .path, .report, .statusWriter] s t ∧ MarksStatus s t
    else OnlyPosts (.ackReports count) h .badArgument s

/-- CLEAR_FAULT (R129): a RECOVERED entry goes to CLEAR, the transition is reported, which releases a held report
writer, resumes status writes and overtakes a record of the entry in flight, and the side's safe line follows; an ACTIVE
entry refuses with STILL_ACTIVE; a CLEAR or SUSPECT entry keeps all it holds; an index above 25 is refused. -/
def Obligations.ClearFaultClearsRecoveredEntries : Prop :=
  ∀ (entry : Byte) (s : State) (h : Handover), InHand (.clearFault entry) s h → FaultsOk s →
    let i := entry.toNat
    if 25 < i then OnlyPosts (.clearFault entry) h .badArgument s
    else
      match (s.fault i).state with
      | .active => OnlyPosts (.clearFault entry) h .stillActive s
      | .clear => OnlyPosts (.clearFault entry) h .done s
      | .suspect => OnlyPosts (.clearFault entry) h .done s
      | .recovered =>
        Completes (.clearFault entry) s fun t =>
          let e := s.fault i
          Posts h .done s t ∧ OwnQueueOnly s t ∧
            t.fault i =
              { e with
                state := .clear
                pending := some .toClear
                superseded := if e.pending.isSome then min 255 (e.superseded + 1) else 0 } ∧
            (∀ j, j ≠ i → t.fault j = s.fault j) ∧
            t.report.backlog = (if e.pending.isSome then s.report.backlog else s.report.backlog ++ [i]) ∧
            t.report =
                { s.report with
                  backlog := t.report.backlog
                  held := false
                  flight := s.report.flight.map fun f => if f.entry = i then { f with overtaken := true } else f
                  status :=
                    { s.report.status with
                      suspended := false, due := t.report.status.due, changed := t.report.status.changed } } ∧
            (∀ (v : Side) (k : Nat), (k = 0 ∨ k = 2) → i = k + sideIndex v →
              (t.safeLine v = false ↔ (s.view v).state = .running ∧
                ∀ k' : Nat, (k' = 0 ∨ k' = 2) →
                  (t.fault (k' + sideIndex v)).state ≠ .active ∧ (t.fault (k' + sideIndex v)).state ≠ .recovered)) ∧
            OnlyChanges [.attach, .path, .faults, .report, .statusWriter] s t ∧ MarksStatus s t

/-- HOLD_MODE 0, 1 and 2 set the mode and hold it, with no condition pending; 3 releases a hold, the mode staying, and
is refused with ALREADY where there is none; any other value is refused with BAD_ARGUMENT. -/
def Obligations.HoldModeHoldsTheMode : Prop :=
  ∀ (m : Byte) (s : State) (h : Handover), InHand (.holdMode m) s h →
    let sets (l : Ladder) : Prop :=
      Completes (.holdMode m) s fun t =>
        Posts h .done s t ∧ OwnQueueOnly s t ∧ t.ladder = l ∧ OnlyChanges [.attach, .path, .ladder] s t ∧ MarksStatus s t
    (m = 0 → sets { mode := .day, hold := some .day, pending := none }) ∧
      (m = 1 → sets { mode := .dusk, hold := some .dusk, pending := none }) ∧
      (m = 2 → sets { mode := .night, hold := some .night, pending := none }) ∧
      (m = 3 → s.ladder.hold.isSome = true → sets { mode := s.ladder.mode, hold := none, pending := none }) ∧
      (m = 3 → s.ladder.hold = none → OnlyPosts (.holdMode m) h .already s) ∧
      (3 < m.toNat → OnlyPosts (.holdMode m) h .badArgument s)

/-- APPLY_SETTINGS with an address that is zero or not a multiple of 4,096 is refused with BAD_ARGUMENT, with detail 0
(the model's choice, log entry 38); otherwise it is ACCEPTED, in flight, and the fetch of 64 beats from the address is
requested. The address is read by its low 36 bits (DEDUCED, log entry 14). -/
def Obligations.ApplySettingsRequestsTheFetch : Prop :=
  ∀ (addr : BitVec 64) (s : State) (h : Handover), InHand (.applySettings addr) s h →
    s.ownQueued .fetch = false → (∀ b, .fetch b ∉ s.attach.wanted) →
    let a : Addr := addr.setWidth 36
    if a = 0 ∨ a.toNat % 4096 ≠ 0 then OnlyPosts (.applySettings addr) h .badArgument s
    else
      Completes (.applySettings addr) s fun t =>
        Accepts .applySettings h s t ∧ OwnQueueOnly s t ∧
          (.fetch a ∈ t.attach.wanted ∨ { src := .fetch, addr := a, len := 64, data := [] } ∈ t.path.own) ∧
          OnlyChanges [.attach, .path] s t ∧ MarksStatus s t

/-- COPY_HISTORY is refused with BAD_ARGUMENT for a sector above 7 or a destination that is not aligned to 1 KiB or
touches a region entry, a slot or the report area, then with BUSY for a sector being erased or while the store is
CLEARING; otherwise it is ACCEPTED, in flight, and the copy joins the end of the requests that wait for the array: the
first of them is served at once where the array is free, and a running erase is asked to suspend if it has been
suspended fewer than 16 times. The address is read by its low 36 bits (DEDUCED, log entry 14); that requests wait in one
list and are served at once where the array is free is the model's choice (log entry 27). Premise: a view that has slots
has frames of some area, as every valid block gives it. How the suspension takes effect is in ErasesRunAndSuspend. -/
def Obligations.CopyHistoryAsksForTheArray : Prop :=
  ∀ (sector : Byte) (addr : BitVec 64) (s : State) (h : Handover), InHand (.copyHistory sector addr) s h → SlotAreasOk s →
    let a := (addr.setWidth 36).toNat
    let touches (first last : Nat) : Prop := first < a + 1024 ∧ a < last
    let bad : Prop :=
      7 < sector.toNat ∨ a % 1024 ≠ 0 ∨
        (∃ r : Region, some r ∈ s.table ∧ touches r.base.toNat (r.base.toNat + 2 ^ r.exponent)) ∨
        (∃ (v : Side) (sl : Slot), sl ∈ (s.view v).slots ∧
          touches sl.base.toNat (sl.base.toNat + (s.geometry v).w * (s.geometry v).h * 2)) ∨
        touches s.reportArea.toNat (s.reportArea.toNat + 4096)
    let busy : Prop := (∃ e, s.history.erase = some e ∧ e.sector = sector.toNat) ∨ s.history.clearing.isSome = true
    (bad → OnlyPosts (.copyHistory sector addr) h .badArgument s) ∧
      (¬bad → busy → OnlyPosts (.copyHistory sector addr) h .busy s) ∧
      (¬bad → ¬busy →
        Completes (.copyHistory sector addr) s fun t =>
          Accepts .copyHistory h s t ∧ OwnQueueOnly s t ∧
            t.history =
              { afterRequest s (s.history.waiting ++ [.copy sector.toNat]) with copyAddr := addr.setWidth 36 } ∧
            OnlyChanges [.attach, .path, .history] s t ∧ MarksStatus s t)

/-- CLEAR_HISTORY is refused with BAD_ARGUMENT, LOCKED, BUSY and FAILED in that order of checks. Otherwise it is
ACCEPTED, in flight: behind a program in progress it waits; else the erase list is emptied and the store is CLEARING,
and, with no sector left to erase and no erase in progress, the ACTIVE marker with serial 1 goes to the lowest ERASED
sector. Nothing is posted yet and the record number stays: DONE follows that marker (HeaderProgramsRotateTheSectors).
The queue, the lock and the sectors stay. That CLEARING begins at once where no program runs, that header programs still
waiting are dropped, and that a suspension that was only requested is dropped with them, is the model's choice (log
entry 21). -/
def Obligations.ClearHistoryStartsTheClearing : Prop :=
  ∀ (c : BitVec 32) (s : State) (h : Handover), InHand (.clearHistory c) s h →
    let x := s.history
    if c ≠ ~~~h.record.issue then OnlyPosts (.clearHistory c) h .badArgument s
    else if x.lock = true then OnlyPosts (.clearHistory c) h .locked s
    else if x.scanning = true ∨ x.clearing.isSome = true then OnlyPosts (.clearHistory c) h .busy s
    else if x.disabled = true then OnlyPosts (.clearHistory c) h .failed s
    else if x.op.isSome = true then
      Completes (.clearHistory c) s fun t =>
        Accepts .clearHistory h s t ∧ OwnQueueOnly s t ∧ t.history = { x with clearing := some .waiting } ∧
          OnlyChanges [.attach, .path, .history] s t ∧ MarksStatus s t
    else
      Completes (.clearHistory c) s fun t =>
        let y := t.history
        let nothingLeft : Prop := x.erase = none ∧ ∀ i, i < 8 → x.state i = .erased ∨ x.state i = .retired
        Accepts .clearHistory h s t ∧ y.activity = .clearing ∧ y.nextRecord = x.nextRecord ∧
          (nothingLeft → y.clearing = some .marking ∧ y.activeOpen = false ∧
            ∀ i, i < 8 → x.state i = .erased → (∀ k, k < i → x.state k ≠ .erased) →
              y.op = some (.header i (.active 1) 80)) ∧
          (¬nothingLeft →
            y.clearing = some .erasing ∧ y.op = none ∧ y.waiting = []) ∧
          y.eraseList = [] ∧ y.sectors = x.sectors ∧ y.known = x.known ∧ y.queue = x.queue ∧ y.lock = x.lock ∧
          y.usable = x.usable ∧
          y.erase.map (fun e => (e.sector, e.remaining, e.suspensions)) =
            x.erase.map (fun e => (e.sector, e.remaining, e.suspensions)) ∧
          (∀ e, y.erase = some e → e.phase ≠ .requested) ∧
          OwnQueueOnly s t ∧ OnlyChanges [.attach, .path, .history] s t ∧ MarksStatus s t

/-- DETACH discards pending parts, result images, what is due and the command in flight, stops both views, empties the
own-traffic queue, abandons what is queued and voids what is granted, and leaves the part TRANSPARENT before the write
that carried it is answered OKAY; an abandoned copy frees the array, and a frozen erase resumes (log entries 21, 27);
settings, drive cycle number (its keeping is log entry 45), faults, backlog and indices, mode and hold, sequences and
pan stay. Capture bursts not yet opened will bind as stopped, and open ones drop the beats outside their run without
evidence (R42, R165). The contents of discarded images (log entry 10) and the fate of queued and granted requests and of
a copy (log entry 32) are the model's choices. -/
def Obligations.DetachLeavesTheFabricAlone : Prop :=
  ∀ (s : State) (h : Handover), InHand .detach s h → TagsOk s →
    Completes .detach s fun t =>
      t.attach =
          { s.attach with
            state := .transparent
            inFlight := none
            immediate := { issue := 0, code := .noneYet, detail := 0, due := false }
            completion := { issue := 0, code := .noneYet, detail := 0, due := false }
            wanted := []
            inHand := none
            request :=
              match s.attach.request with
              | some r => if s.ownQueued r.item.source then none else some { r with void := true }
              | none => none } ∧
        t.path = { s.path with writes := t.path.writes, own := [], countW := 0, countR := 0 } ∧
        AnswersWrite h.tag .okay
          (s.setPath
            { s.path with
              writes := s.path.writes.map fun u =>
                match u.cls with
                | .capture v base _ => { u with cls := .capture v base true }
                | _ => u }) t ∧
        (∀ v, t.safeLine v = true ∧ (t.view v).inverted = (s.view v).inverted ∧
          if (s.view v).state = .stopped then
            t.view v = { s.view v with pendingDev := none, pendingFlip := none }
          else StopLeaves (s.view v) (t.view v)) ∧
        t.ladder.mode = s.ladder.mode ∧ t.ladder.hold = s.ladder.hold ∧
        (t.ladder.pending = none ∨ ∀ v, (s.view v).state = .stopped) ∧
        t.report.backlog = s.report.backlog ∧ t.report.produce = s.report.produce ∧
        t.report.consume = s.report.consume ∧
        t.report.flight =
          (if s.ownQueued .record then none else s.report.flight.map fun f => { f with void := true }) ∧
        t.report.status.flight = (if s.ownQueued .status then none else s.report.status.flight.map fun _ => ⟨true⟩) ∧
        t.history.copyData = none ∧
        t.history.copyFlight = (if s.ownQueued .copy then none else s.history.copyFlight.map fun _ => ⟨true⟩) ∧
        (∀ i, .copy i ∉ t.history.waiting ∧ t.history.op ≠ some (.copy i)) ∧
        (let left := s.history.waiting.filter fun r =>
            match r with
            | .copy _ => false
            | _ => true
        ((∀ i, s.history.op ≠ some (.copy i)) →
          t.history =
            { s.history with
              waiting := left
              copyData := none
              copyFlight := t.history.copyFlight
              erase := s.history.erase.map fun e =>
                if e.phase = .requested ∧ left = [] then { e with phase := .running } else e }) ∧
          ∀ i, s.history.op = some (.copy i) → s.history.scanning = false →
            (∀ e, s.history.erase = some e → e.phase = .frozen) →
            (s.history.clearing = none → GoesOn s left s.history.needActive t) ∧
              (s.history.clearing = some .waiting → ClearBegins s t)) ∧
        t.history.sectors = s.history.sectors ∧ t.history.known = s.history.known ∧
        t.history.queue = s.history.queue ∧ t.history.lock = s.history.lock ∧ t.history.usable = s.history.usable ∧
        OnlyChanges [.attach, .path, .viewLeft, .viewRight, .ladder, .report, .statusWriter, .history] s t ∧
        MarksStatus s t

/-! ## Attaching, applying and the unit's own writes (chapter 11) -/

/-- The oldest copy of the anchor record is examined in TRANSPARENT: with format 3, a settings address that is not zero
and the matching check field it puts the part in ATTACHING, holds the drive cycle number and requests the fetch. Any
other copy, and any copy when the part is no longer TRANSPARENT, is dropped. That copies are kept, examined by their own
row and dropped when one is taken is the model's choice (log entry 5). -/
def Obligations.AnchorRecordsAreExamined : Prop :=
  ∀ s : State, s.ownQueued .fetch = false → (∀ b, .fetch b ∉ s.attach.wanted) →
    (s.attach.anchorCopies = [] → Stays .anchorRecordWrite s) ∧
      ∀ (w : Beat) (rest : List Beat), s.attach.anchorCopies = w :: rest →
        Completes .anchorRecordWrite s fun t =>
          (let addr := (w.extractLsb' 8 24).toNat * 4096
          if s.attach.state = .transparent ∧ (w.extractLsb' 0 8).toNat = 3 ∧ addr ≠ 0 ∧
              (w.extractLsb' 64 32).toNat = 2 ^ 32 - 1 - addr % 2 ^ 32 then
            t.attach =
                { s.attach with
                  state := .attaching
                  heldCycle := w.extractLsb' 32 32
                  anchorCopies := []
                  wanted := t.attach.wanted
                  request := t.attach.request } ∧
              OwnQueueOnly s t ∧
              (.fetch (BitVec.ofNat 36 addr) ∈ t.attach.wanted ∨
                { src := .fetch, addr := BitVec.ofNat 36 addr, len := 64, data := [] } ∈ t.path.own)
          else t.attach = { s.attach with anchorCopies := rest } ∧ t.path = s.path) ∧
            OnlyChanges [.attach, .path] s t ∧ MarksStatus s t

/-- A settings fetch that returns in ATTACHING is judged: an error response gives the result word FAILED and makes
MEMORY_ERROR occur, a rejected block gives NOT_ATTACHED with the index and nothing else, and a valid block is taken
whole, as R170 lists, and gives DONE. The word is requested as a write to the anchor address. A block is rejected by the
lowest index whose condition it breaks, and its fields are taken from their places with the tuning fields clamped and
counted; log entries 14 and 18 say what the rules leave open there. The return of a fetch that a DETACH has voided, or
that nothing waits for, changes nothing but that the unit is free for what became due next and that an error makes
MEMORY_ERROR occur (R165, R177; DEDUCED, log entry 32). -/
def Obligations.FetchReturnDecidesTheAttach : Prop :=
  ((∀ (beats : List RBeat) (s : State) (d : DownRead),
    (Instr.settingsFetchReturn beats).wellFormed = true → FaultsOk s → StoreQueueOk s →
    s.path.answeredRead 0x3D = some d → d.owner = .own → d.unreturned = 64 →
    s.attach.state = .attaching → s.attach.request = some { item := .fetch d.a.addr, void := false } →
    s.attach.wanted = [] → s.ownQueued .anchorResult = false →
    Completes (.settingsFetchReturn beats) s fun t =>
      let b := beats.map RBeat.data
      let posts (word : BitVec 32) : Prop :=
        t.attach.anchorWord = word ∧ t.attach.wanted = [] ∧
          t.attach.request = some { item := .anchorResult, void := false } ∧
          t.path.own =
            s.path.own ++ [{ src := .anchorResult, addr := s.attach.anchor, len := 1, data := [.resultWord word] }]
      let refuses (word : BitVec 32) : Prop :=
        posts word ∧
          t.attach = { s.attach with anchorWord := word, request := t.attach.request } ∧
          t.path = { s.path with downR := t.path.downR, own := t.path.own }
      t.path.downR = s.path.downR.eraseP (fun e => e.a.id == 0x3D) ∧
        if beats.any (fun x => decide (x.resp = .slverr ∨ x.resp = .decerr)) = true then
          refuses 11 ∧ Occurs 23 (detailAddress 2 0xFF d.a.addr) s t ∧ OnlyEvidence s t ∧
            OnlyChanges [.attach, .path, .faults, .report, .statusWriter, .history] s t ∧ MarksStatus s t
        else
          match rejected b with
          | some i => refuses (BitVec.ofNat 32 (10 + i * 65536)) ∧ OnlyChanges [.attach, .path] s t ∧ MarksStatus s t
          | none =>
            let c := blockSettings b
            posts (BitVec.ofNat 32 (1 + (clampedFields b).length * 256 + (clampedFields b).headD 255 * 65536)) ∧
              t.attach =
                { s.attach with
                  state := .attached
                  current := some c
                  driveCycle := s.attach.heldCycle
                  lastIssue := 0
                  anchorWord := t.attach.anchorWord
                  request := t.attach.request } ∧
              (∀ v : Side,
                let x := s.view v
                let g := (c.views.get v).geometry
                let clamp (p : Nat × Nat) : Nat × Nat := (min (p.1 / 8 * 8) (g.w - g.vw), min p.2 (g.h - g.vh))
                t.view v =
                  { x with
                    slots := g.bases.map fun a =>
                      { state := .free, pinRequest := false, base := a, reads := 0, frame := none }
                    pan := clamp x.pan
                    panTarget := clamp x.panTarget
                    pendingDev := none
                    pendingFlip := none
                    staged := 0
                    working := 0
                    inverted := (c.views.get v).flip.inversion }) ∧
              (∀ u ∈ t.path.reads, ∀ r : ReadRecord, u.cls = .view r → r.charged = none) ∧
              t.pwm =
                { counting := true, counter := 0, workingD := c.pwmDivider, workingP := c.pwmPeriod,
                  stagedD := c.pwmDivider, stagedP := c.pwmPeriod } ∧
              t.faults = s.faults.map (fun e => { e with confirmed := false, stored := false }) ∧
              t.report.backlog = s.report.backlog ∧ t.report.produce = 0 ∧ t.report.consume = 0 ∧
              t.report.flight = s.report.flight ∧ t.report.held = false ∧ t.report.status.due = true ∧
              t.report.status.suspended = false ∧ t.report.status.holdoff = s.report.status.holdoff ∧
              t.report.status.flight = s.report.status.flight ∧
              t.report.status.writeCount = s.report.status.writeCount ∧
              t.history = { s.history with lock := s.history.lock || c.lock } ∧ t.path.writes = s.path.writes ∧
              OnlyChanges
                [.attach, .path, .viewLeft, .viewRight, .pwm, .faults, .report, .statusWriter, .history] s t) ∧
    ∀ b : List Beat,
      (∀ i, rejected b = some i ↔ BlockBreaks b i ∧ ∀ j, j < i → ¬BlockBreaks b j) ∧
        (rejected b = none ↔ ∀ i, ¬BlockBreaks b i) ∧ BlockGives b (blockSettings b) (clampedFields b)) ∧
    ∀ (beats : List RBeat) (s : State) (d : DownRead), (Instr.settingsFetchReturn beats).wellFormed = true →
      FaultsOk s → StoreQueueOk s → s.path.answeredRead 0x3D = some d → d.owner = .own → d.unreturned = 64 →
      (∀ r, s.attach.request = some r → r.void = true) ∨ s.attach.state = .transparent ∨
        (s.attach.state = .attached ∧ ∀ n, s.attach.inFlight ≠ some (.applySettings, n)) →
      Completes (.settingsFetchReturn beats) s fun t =>
        let error : Prop := beats.any (fun x => decide (x.resp = .slverr ∨ x.resp = .decerr)) = true
        t.attach = { s.attach with wanted := t.attach.wanted, request := t.attach.request } ∧
          t.path = { s.path with downR := s.path.downR.eraseP (fun e => e.a.id == 0x3D), own := t.path.own } ∧
          (s.attach.wanted = [] → t.attach.wanted = [] ∧ t.attach.request = none ∧ t.path.own = s.path.own) ∧
          (∀ i w, s.attach.wanted = i :: w →
            t.attach.request = some { item := i, void := false } ∧ t.attach.wanted = w ∧
              t.path.own = s.path.own ++
                [match i with
                | .fetch a => { src := .fetch, addr := a, len := 64, data := [] }
                | .anchorResult =>
                  { src := .anchorResult, addr := s.attach.anchor, len := 1
                    data := [.resultWord s.attach.anchorWord] }
                | .immediate => { src := .immediateResult, addr := 0, len := 1, data := [] }
                | .completion => { src := .completionResult, addr := 0, len := 1, data := [] }]) ∧
          (error → Occurs 23 (detailAddress 2 0xFF d.a.addr) s t) ∧ (¬error → t.faults = s.faults) ∧
          OnlyEvidence s t ∧ OnlyChanges [.attach, .path, .faults, .report, .statusWriter, .history] s t ∧
          MarksStatus s t

/-- A settings fetch that returns with an APPLY_SETTINGS in flight decides it: FAILED on an error response, BAD_ARGUMENT
with SETTINGS_REJECT for a rejected block, NOT_STOPPED for a changed structural field that a view's state forbids, with
the lowest such field's index (DEDUCED, log entry 18), and DONE otherwise, its detail the number of clamped fields and
the first four indices, 0xFF where unused (R181). Only the last changes settings: of a view that is not STOPPED the
development and flip parts become pending; a changed geometry rebuilds the slot table and clamps the pan origin and
target into the new ranges (R71), and the view's reads in flight are charged to none (R24, R63; DEDUCED, log entry 32);
a changed report area restarts the indices and voids the record and status writes in flight, queued ones among them
(R140; the model's choice, log entry 36). -/
def Obligations.FetchReturnDecidesTheApply : Prop :=
  (∀ l : List Nat,
    let d := clampDetail l
    (d.extractLsb' 0 8).toNat = l.length % 256 ∧ d.extractLsb' 40 24 = 0 ∧
      ∀ k, k < 4 → (d.extractLsb' (8 * (k + 1)) 8).toNat = (match l[k]? with
        | some i => i % 256
        | none => 255)) ∧
  (∀ (s : State) (v : Side),
    (s.attach.current = none → s.counts = { safety := 1, warning := 1, freeze := 2, safetyHeal := 1, warningHeal := 1 }) ∧
      ∀ c, s.attach.current = some c →
        s.geometry v = (c.views.get v).geometry ∧ s.flipFields v = (c.views.get v).flip ∧
          s.limits v = (c.views.get v).limits ∧ s.counts = c.counts ∧ s.table = c.table ∧ s.reportArea = c.reportArea ∧
          s.ladderFields = c.ladder) ∧
  (∀ (beats : List RBeat) (s : State) (d : DownRead) (n : BitVec 32) (r : UnitRequest) (old : Settings),
    (Instr.settingsFetchReturn beats).wellFormed = true → FaultsOk s → StoreQueueOk s →
    s.path.answeredRead 0x3D = some d → d.owner = .own → d.unreturned = 64 →
    s.attach.state = .attached → s.attach.inFlight = some (.applySettings, n) → s.attach.request = some r →
    r.void = false → s.attach.current = some old → old.table.length = 8 →
    Completes (.settingsFetchReturn beats) s fun t =>
      let b := beats.map RBeat.data
      let new := blockSettings b
      let error : Prop := beats.any (fun x => decide (x.resp = .slverr ∨ x.resp = .decerr)) = true
      let live (v : Side) : Prop := (s.view v).state ≠ .stopped
      let forbidden : Prop :=
        ((live .left ∨ live .right) ∧ (old.table ≠ new.table ∨ old.reportArea ≠ new.reportArea)) ∨
          ∃ v, live v ∧ (old.views.get v).geometry ≠ (new.views.get v).geometry
      let changes (i : Nat) : Prop :=
        ((live .left ∨ live .right) ∧
            ((∃ e, e < 8 ∧ i = 1 + e ∧ old.table[e]? ≠ new.table[e]?) ∨ (i = 9 ∧ old.reportArea ≠ new.reportArea))) ∨
          ∃ v, live v ∧
            let o := (old.views.get v).geometry
            let w := (new.views.get v).geometry
            let m : Nat := match v with
              | .left => 32
              | .right => 80
            (i = m ∧ o.w ≠ w.w) ∨ (i = m + 1 ∧ o.h ≠ w.h) ∨ (i = m + 2 ∧ o.vw ≠ w.vw) ∨ (i = m + 3 ∧ o.vh ≠ w.vh) ∨
              (i = m + 4 ∧ o.bases.length ≠ w.bases.length) ∨
              ∃ k, k < 4 ∧ i = m + 5 + k ∧ o.bases[k]? ≠ w.bases[k]?
      let clamp (g : Geometry) (p : Nat × Nat) : Nat × Nat := (min (p.1 / 8 * 8) (g.w - g.vw), min p.2 (g.h - g.vh))
      let decides (code : ResultCode) (detail : BitVec 64) : Prop :=
        t.attach =
            { s.attach with
              current := t.attach.current
              inFlight := none
              completion := { issue := n, code := code, detail := detail, due := true }
              wanted := t.attach.wanted
              request := t.attach.request } ∧
          (.completion ∈ t.attach.wanted ∨ t.ownQueued .completionResult = true)
      let refuses (code : ResultCode) (detail : BitVec 64) : Prop :=
        decides code detail ∧ t.attach.current = some old ∧
          t.path = { s.path with downR := t.path.downR, own := t.path.own }
      let evidence : Prop :=
        OnlyEvidence s t ∧ OnlyChanges [.attach, .path, .faults, .report, .statusWriter, .history] s t ∧ MarksStatus s t
      t.path.downR = s.path.downR.eraseP (fun e => e.a.id == 0x3D) ∧
        (error → refuses .failed 0 ∧ Occurs 23 (detailAddress 2 0xFF d.a.addr) s t ∧ evidence) ∧
        (∀ i, ¬error → rejected b = some i →
          refuses .badArgument (BitVec.ofNat 64 (i * 256)) ∧ Occurs 24 (detailBytes i 0 0) s t ∧ evidence) ∧
        (¬error → rejected b = none → forbidden →
          (∃ i, 1 ≤ i ∧ i ≤ 88 ∧ refuses .notStopped (BitVec.ofNat 64 (i * 256))) ∧
            OnlyChanges [.attach, .path] s t ∧ MarksStatus s t) ∧
        (∀ i, ¬error → rejected b = none → changes i → (∀ j, j < i → ¬changes j) →
          refuses .notStopped (BitVec.ofNat 64 (i * 256))) ∧
        (¬error → rejected b = none → ¬forbidden →
          decides .done (clampDetail (clampedFields b)) ∧
            (∃ c : Settings, t.attach.current = some c ∧ c = { new with views := c.views } ∧
              ∀ v : Side,
                let x := s.view v
                let y := t.view v
                let o := old.views.get v
                let w := new.views.get v
                if x.state = .stopped then
                  c.views.get v = w ∧ y.inverted = w.flip.inversion ∧
                    (if o.geometry = w.geometry then y = { x with inverted := y.inverted }
                    else
                      y.slots = w.geometry.bases.map (fun a =>
                        { state := .free, pinRequest := false, base := a, reads := 0, frame := none }) ∧
                        y = { x with slots := y.slots, pan := y.pan, panTarget := y.panTarget, inverted := y.inverted } ∧
                        y.pan = clamp w.geometry x.pan ∧ y.panTarget = clamp w.geometry x.panTarget)
                else
                  c.views.get v = { w with dev := o.dev, flip := o.flip } ∧
                    y = { x with pendingDev := some w.dev, pendingFlip := some w.flip }) ∧
            t.pwm = { s.pwm with stagedD := new.pwmDivider, stagedP := new.pwmPeriod } ∧
            t.history = { s.history with lock := s.history.lock || new.lock } ∧
            (if old.reportArea = new.reportArea then
              t.report.produce = s.report.produce ∧ t.report.consume = s.report.consume ∧
                t.report.held = s.report.held ∧ t.report.flight = s.report.flight ∧
                t.report.status.flight = s.report.status.flight ∧
                t.report.status.suspended = s.report.status.suspended
            else
              t.report.produce = 0 ∧ t.report.consume = 0 ∧ t.report.held = false ∧ t.report.status.due = true ∧
                t.report.flight = (s.report.flight.map fun f => { f with void := true }) ∧
                t.report.status.flight = (s.report.status.flight.map fun _ => ⟨true⟩) ∧
                t.report.status.suspended = false) ∧
            t.report.status.holdoff = s.report.status.holdoff ∧
            t.report.status.writeCount = s.report.status.writeCount ∧
            t.path =
              { s.path with
                downR := t.path.downR
                own := t.path.own
                reads := s.path.reads.map fun u =>
                  match u.cls with
                  | .view r =>
                    if (old.views.get r.view).geometry = (new.views.get r.view).geometry then u
                    else { u with cls := .view { r with charged := none } }
                  | _ => u } ∧
            t.report.backlog = s.report.backlog ∧ t.path.writes = s.path.writes ∧
            OnlyChanges [.attach, .path, .viewLeft, .viewRight, .pwm, .report, .statusWriter, .history] s t))

/-- The answer to the anchor result write ends ATTACHING, and the answer to a result write makes its image no longer due
unless it was replaced meanwhile; the unit is then free for what became due next. An error makes MEMORY_ERROR occur and
changes nothing of this. A request that a DETACH has voided ends without effect on the unit's state and images (R177,
log entry 32, DEDUCED). -/
def Obligations.UnitWritesAreAnswered : Prop :=
  (∀ (p : Path) (id : BusId),
    (∀ d, p.answeredWrite id = some d ↔ FirstOf (fun e => e.a.id = id) p.downW d ∧ d.unsent = 0) ∧
      ∀ d, p.answeredRead id = some d ↔ FirstOf (fun e => e.a.id = id) p.downR d) ∧
  (∀ (s : State) (src : OwnSource),
    (∀ d, s.ownAnswered src = some d ↔ s.path.answeredWrite 0x3D = some d ∧ d.owner = .own src) ∧
      (s.ownQueued src = true ↔ ∃ r ∈ s.path.own, r.src = src)) ∧
  (∀ (r : Resp) (s : State) (d : DownWrite), r ≠ .exokay → FaultsOk s → StoreQueueOk s →
    let error : Prop := r = .slverr ∨ r = .decerr
    let ends (code : Byte) (t : State) : Prop :=
      t.path = { s.path with downW := s.path.downW.eraseP (fun e => e.a.id == 0x3D), own := t.path.own } ∧
        (s.attach.wanted = [] → t.attach.request = none ∧ t.path.own = s.path.own) ∧
        (∀ i w, s.attach.wanted = i :: w →
          t.attach.request = some { item := i, void := false } ∧ t.attach.wanted = w) ∧
        (error → Occurs 23 (detailAddress code 0xFF d.a.addr) s t) ∧ (¬error → t.faults = s.faults) ∧
        OnlyEvidence s t ∧ OnlyChanges [.attach, .path, .faults, .report, .statusWriter, .history] s t ∧
        MarksStatus s t
    (s.ownAnswered .anchorResult = some d →
      Completes (.anchorResultWriteResponse r) s fun t =>
        t.attach =
            { s.attach with
              state := if (s.attach.request.any fun q => !q.void) = true ∧ s.attach.state = .attaching then .transparent else s.attach.state
              wanted := t.attach.wanted
              request := t.attach.request } ∧
          ends 3 t) ∧
      (s.ownAnswered .immediateResult = some d →
        Completes (.resultWriteResponse r) s fun t =>
          t.attach =
              { s.attach with
                immediate :=
                  if (s.attach.request.any fun q => !q.void) = true then { s.attach.immediate with due := s.attach.wanted.contains .immediate }
                  else s.attach.immediate
                wanted := t.attach.wanted
                request := t.attach.request } ∧
            ends 4 t) ∧
      (s.ownAnswered .completionResult = some d →
        Completes (.resultWriteResponse r) s fun t =>
          t.attach =
              { s.attach with
                completion :=
                  if (s.attach.request.any fun q => !q.void) = true then { s.attach.completion with due := s.attach.wanted.contains .completion }
                  else s.attach.completion
                wanted := t.attach.wanted
                request := t.attach.request } ∧
            ends 4 t))

/-! ## The report writer (chapter 9) -/

/-- The head entry's record is issued while ATTACHED, with room in the ring, none in flight and the writer not held: two
beats at ring position produce mod 64, with the entry's content as it stands. Its answer completes it, raising produce
and clearing the pending transition, unless it was overtaken (it is issued again at the same position), in error (the
writer is held and MEMORY_ERROR occurs) or void (nothing). The record's fields and the details of the kinds stand where
R181 places them; an absent time or detail is written as 0 (the model's choice, log entry 10). That an error leaves the
writer held also where its MEMORY_ERROR makes a DISABLED store give STORE_FAULT a transition in the same event is the
model's choice (log entry 37). -/
def Obligations.RecordsAreIssuedAndCompleted : Prop :=
  (∀ (beats : List Beat) (offset k : Nat),
    field beats offset 0 = 0 ∧
      field beats offset (k + 1) =
        ((beats.getD (offset / 16) 0).extractLsb' (8 * (offset % 16)) 8).toNat + 256 * field beats (offset + 1) k) ∧
  ((∀ s : State, FaultsOk s → StoreQueueOk s →
    let request (i : Nat) (t : State) : OwnRequest :=
      { src := .record
        addr := BitVec.ofNat 36 (s.reportArea.toNat + 256 + 32 * (s.report.produce.toNat % 64))
        len := 2
        data := (reportRecord s.report.produce s.attach.driveCycle i (t.fault i)).map .full }
    ((s.attach.state ≠ .attached ∨ s.report.backlog = [] ∨ 64 ≤ unacknowledged s ∨ s.report.flight ≠ none ∨
        s.report.held = true) → Stays .recordWriteIssue s) ∧
      (∀ (i : Nat) (rest : List Nat), s.attach.state = .attached → s.report.backlog = i :: rest →
        unacknowledged s < 64 → s.report.flight = none → s.report.held = false →
        Completes .recordWriteIssue s fun t =>
          t.report = { s.report with flight := some { entry := i, overtaken := false, void := false } } ∧
            t.path = { s.path with own := s.path.own ++ [request i s] } ∧
            OnlyChanges [.report, .path] s t ∧ MarksStatus s t) ∧
      ∀ (r : Resp) (d : DownWrite) (f : RecordFlight), r ≠ .exokay → s.ownAnswered .record = some d →
        s.report.flight = some f → f.entry < 26 →
        Completes (.reportRecordWriteResponse r) s fun t =>
          let error : Prop := r = .slverr ∨ r = .decerr
          t.path.downW = s.path.downW.eraseP (fun e => e.a.id == 0x3D) ∧
            (error →
              Occurs 23 (detailAddress 5 0xFF d.a.addr) s t ∧ t.report.flight = none ∧
                (f.void = false → t.report.held = true) ∧ t.report.produce = s.report.produce ∧
                t.path.own = s.path.own ∧ (∀ i ∈ s.report.backlog, i ∈ t.report.backlog) ∧
                ∀ j, j ≠ 23 → j ≠ 25 → t.fault j = s.fault j) ∧
            (¬error →
              if f.void then
                t.report = { s.report with flight := none } ∧ t.faults = s.faults ∧ t.path.own = s.path.own
              else if f.overtaken then
                t.report = { s.report with flight := some { f with overtaken := false } } ∧ t.faults = s.faults ∧
                  t.path.own = s.path.own ++ [request f.entry s]
              else
                t.report.produce = s.report.produce + 1 ∧ t.report.flight = none ∧
                  t.report.backlog = (s.report.backlog.filter fun j => j != f.entry) ∧ t.report.status.due = true ∧
                  t.report.consume = s.report.consume ∧ t.report.held = s.report.held ∧
                  t.fault f.entry = { s.fault f.entry with pending := none, superseded := 0 } ∧
                  (∀ j, j ≠ f.entry → t.fault j = s.fault j) ∧ t.path.own = s.path.own) ∧
            t.path.writes = s.path.writes ∧
            OnlyChanges [.path, .faults, .report, .statusWriter, .history] s t ∧ MarksStatus s t) ∧
    (∀ (number cycle : BitVec 32) (i : Nat) (e : FaultEntry), i < 26 → e.occurrences ≤ 65535 → e.superseded ≤ 255 →
      let state : Nat := match e.state with
        | .clear => 0
        | .suspect => 0
        | .active => 2
        | .recovered => 3
      let transition : Nat := match e.pending with
        | none => 0
        | some .toActive => 1
        | some .toRecovered => 2
        | some .toClear => 3
        | some .occurred => 4
      Holds (reportRecord number cycle i e) 2
        [(0, 4, number.toNat), (4, 4, cycle.toNat), (8, 4, (e.firstSeen.getD 0).toNat),
          (12, 4, (e.lastSeen.getD 0).toNat), (16, 4, (e.lastSequence.getD 0).toNat), (20, 2, e.occurrences), (22, 1, i),
          (23, 1, transition + 16 * state), (24, 1, e.superseded), (25, 7, (e.detail.getD 0).toNat)]) ∧
    (∀ b25 n, (detailWord b25 n).toNat = b25 % 256 + n % 2 ^ 32 * 2 ^ 24) ∧
    (∀ x y z, (detailBytes x y z).toNat = x % 256 + y % 256 * 2 ^ 8 + z % 256 * 2 ^ 16) ∧
    (∀ (x y : Byte) (a : Addr), (detailAddress x y a).toNat = x.toNat + y.toNat * 2 ^ 8 + a.toNat * 2 ^ 16) ∧
    (∀ reason o p, (detailOrderBreach reason o p).toNat =
      reason % 256 + o / 16 % 2 ^ 24 * 2 ^ 8 + p / 16 % 2 ^ 24 * 2 ^ 32) ∧
    ∀ (reason : Byte) (id : BusId) (o : Nat), (detailCaptureRefused reason id o).toNat =
      reason.toNat + id.toNat * 2 ^ 8 + o % 2 ^ 32 * 2 ^ 24)

/-- A due status write is issued while ATTACHED, none in flight, not suspended and the holdoff over: 16 beats at the
report area base with every field as it stands, the write count raised and the holdoff of 1 ms begun. An OKAY leaves the
write due only if a change came since its issue; an error suspends status writes and makes MEMORY_ERROR occur; a void
write's answer is ignored. That the error suspends them also where its MEMORY_ERROR makes a DISABLED store give
STORE_FAULT a transition in the same event is the model's choice (log entry 37). The block's fields are the parts of the
state that R141 names, and stand where R181 places them; the order of the activities, with DISABLED shown before a scan,
a clear, a program and a copy that still runs, is DEDUCED (log entry 28); that the activity is CLEARING only once a
program in progress has ended (log entry 21) and that the level byte beside a clear valid flag shows the level kept (log
entry 10) are the model's choices. -/
def Obligations.StatusWritesAreIssuedAndAnswered : Prop :=
  (∀ s : State,
    let f := s.status
    let h := s.history
    f.driveCycle = s.attach.driveCycle ∧ f.produce = s.report.produce ∧ f.consume = s.report.consume ∧
      f.backlog = s.report.backlog.length ∧ f.mode = s.ladder.mode ∧ f.hold = s.ladder.hold ∧
      (f.attention = true ↔
        s.attach.state = .attached ∧ (∃ c, s.attach.current = some c ∧ c.attention = true) ∧
          s.report.produce ≠ s.report.consume) ∧
      f.activity =
        (if h.disabled = true then .disabled
        else if h.scanning = true then .scanning
        else if h.clearing = some .erasing ∨ h.clearing = some .marking then .clearing
        else
          match h.op, h.erase with
          | some (.copy _), _ => .copying
          | some _, _ => .programming
          | none, some e => if e.phase = .requested then .eraseSuspended else .erasing
          | none, none => .idle) ∧
      f.lock = h.lock ∧ f.active = h.active ∧ f.usable = h.usable ∧ f.nextRecord = h.nextRecord ∧
      f.faultCodes =
        s.faults.map (fun e =>
          match e.state with
          | .clear => 0
          | .suspect => 0
          | .active => 2
          | .recovered => 3) ∧
      ∀ v : Side,
        let x := s.view v
        let side : Nat := match v with
          | .left => 0
          | .right => 1
        let line : Bool := match v with
          | .left => f.safeLeft
          | .right => f.safeRight
        let y : ViewStatus := match v with
          | .left => f.left
          | .right => f.right
        (line = false ↔
            x.state = .running ∧
              ∀ k : Nat, k = 0 ∨ k = 2 → (s.fault (k + side)).state ≠ .active ∧ (s.fault (k + side)).state ≠ .recovered) ∧
          y =
            { state := x.state, level := x.level, levelValid := x.levelValid, pinned := y.pinned
              glareEntries := x.glare.length
              dimming := (x.glare.filter fun e => decide (e.target < 256)).length } ∧
          ((∀ sl ∈ x.slots, sl.state ≠ .pinned) → y.pinned = none) ∧
          ∀ (i : Nat) (sl : Slot) (g : Frame), x.slots[i]? = some sl → sl.state = .pinned → sl.frame = some g →
            (∀ (j : Nat) (sl' : Slot), j < i → x.slots[j]? = some sl' → sl'.state ≠ .pinned) →
            y.pinned = some (i, g.sequence)) ∧
  ((∀ s : State, FaultsOk s → StoreQueueOk s →
    let w := s.report.status
    ((s.attach.state ≠ .attached ∨ w.due = false ∨ w.flight ≠ none ∨ w.suspended = true ∨ w.holdoff ≠ 0) →
        Stays .statusWriteIssue s) ∧
      (s.attach.state = .attached → w.due = true → w.flight = none → w.suspended = false → w.holdoff = 0 →
        Completes .statusWriteIssue s fun t =>
          t.report =
              { s.report with
                status :=
                  { w with flight := some ⟨false⟩, changed := false, holdoff := 1000, writeCount := w.writeCount + 1 } } ∧
            t.path =
              { s.path with
                own := s.path.own ++
                  [{ src := .status, addr := s.reportArea, len := 16
                     data := (statusBlock (w.writeCount + 1) s.timebase s.status).map .full }] } ∧
            OnlyChanges [.report, .statusWriter, .path] s t) ∧
      ∀ (r : Resp) (d : DownWrite) (f : Flight), r ≠ .exokay → s.ownAnswered .status = some d → w.flight = some f →
        Completes (.statusWriteResponse r) s fun t =>
          let error : Prop := r = .slverr ∨ r = .decerr
          t.path = { s.path with downW := s.path.downW.eraseP (fun e => e.a.id == 0x3D) } ∧
            t.report.status.flight = none ∧
            (¬error →
              t.report =
                  { s.report with
                    status := if f.void then { w with flight := none } else { w with flight := none, due := w.changed } } ∧
                t.faults = s.faults) ∧
            (error →
              Occurs 23 (detailAddress 6 0xFF d.a.addr) s t ∧ (f.void = false → t.report.status.suspended = true) ∧
                (w.due = true → t.report.status.due = true)) ∧
            t.report.status.holdoff = w.holdoff ∧ t.report.status.writeCount = w.writeCount ∧
            OnlyChanges [.path, .faults, .report, .statusWriter, .history] s t) ∧
    ∀ (n : BitVec 32) (time : Time) (f : StatusFields), f.faultCodes.length = 26 → (∀ c ∈ f.faultCodes, c < 256) →
      let bit (b : Bool) : Nat := if b then 1 else 0
      let mode (m : Mode) : Nat := match m with
        | .day => 0
        | .dusk => 1
        | .night => 2
      let hold : Nat := match f.hold with
        | none => 0
        | some m => mode m + 1
      let activity : Nat := match f.activity with
        | .idle => 0
        | .scanning => 1
        | .programming => 2
        | .erasing => 3
        | .eraseSuspended => 4
        | .copying => 5
        | .clearing => 6
        | .disabled => 7
      let view (o : Nat) (x : ViewStatus) : List (Nat × Nat × Nat) :=
        let state : Nat := match x.state with
          | .stopped => 0
          | .starting => 1
          | .running => 2
          | .blanked => 3
        [(o, 1, state), (o + 1, 1, x.level % 256), (o + 2, 1, bit x.levelValid),
          (o + 3, 1, (x.pinned.map Prod.fst).getD 255 % 256), (o + 4, 4, ((x.pinned.map Prod.snd).getD 0).toNat),
          (o + 8, 1, x.glareEntries % 256), (o + 9, 1, x.dimming % 256), (o + 10, 22, 0)]
      Holds (statusBlock n time f) 16
        ([(0, 4, n.toNat), (4, 4, time.toNat), (8, 4, f.driveCycle.toNat), (12, 4, f.produce.toNat),
          (16, 4, f.consume.toNat), (20, 1, f.backlog % 256), (21, 1, mode f.mode), (22, 1, hold),
          (23, 1, bit f.safeLeft + 2 * bit f.safeRight + 4 * bit f.attention), (24, 1, activity), (25, 1, bit f.lock),
          (26, 1, f.active % 256), (27, 1, f.usable % 256), (28, 4, f.nextRecord.toNat)] ++
          view 32 f.left ++ view 64 f.right ++ (f.faultCodes.zipIdx.map fun q => (96 + q.2, 1, q.1)) ++ [(122, 134, 0)]))

/-! ## The history store (chapter 9) -/

/-- The head request is served when the array is free and the active sector has a position: its content is taken and the
program takes 80 µs; a running erase is first asked to suspend. A verified program commits its position, sets the stored
flag, takes the entry from the queue and raises position and record number; one that fails leaves its position spoiled,
STORE_FAULT fails, and the request is tried once more with the same number, an erase staying frozen under it; after the
second failure it is discarded with its stored flag clear, also where the flag was set (DEDUCED, log entry 44). At the
end a frozen erase resumes, and is asked to suspend again for a request that waits. The list of waiting requests and the
second try directly after the first are the model's choices (log entry 27), as is the end of a program once its count is
0 (log entry 12). A verified program gives STORE_FAULT its pass. While the store is DISABLED, scanning or clearing no
request is served, and a CLEAR_HISTORY that waits begins at the end of the program in progress, with what it does to
waiting header programs the model's choice (log entry 21). -/
def Obligations.StoreRequestsAreServed : Prop :=
  (∀ (s : State) (i : Nat) (q : List Nat), FaultsOk s → s.history.queue = i :: q → s.history.clearing = none →
    s.history.disabled = false → s.history.scanning = false →
    let h := s.history
    let p := h.nextPosition
    let content (t : State) : Beat := historyContent h.nextRecord s.attach.driveCycle i (t.fault i)
    let waiting : List ArrayRequest :=
      if p = 63 ∧ ArrayRequest.header h.active .full ∉ h.waiting then h.waiting ++ [.header h.active .full] else h.waiting
    (h.activeOpen = true → p ≤ 63 → .record ∉ h.waiting → (∀ j c n, h.op ≠ some (.record j c n)) →
        Completes .storeRequestServe s fun t =>
          t.history = afterRequest s (h.waiting ++ [.record]) ∧
            (h.waiting = [] → h.op = none → h.erase = none →
              t.history = { h with op := some (.record i (content s) 80) }) ∧
            OnlyChanges [.history] s t ∧ MarksStatus s t) ∧
      ((h.activeOpen = false ∨ 63 < p ∨ .record ∈ h.waiting ∨ ∃ j c n, h.op = some (.record j c n)) →
        Stays .storeRequestServe s) ∧
      (∀ (ok : Bool), (∀ j c, h.op ≠ some (.record j c 0)) → Stays (.recordProgramDone ok) s) ∧
      ∀ (c : Beat) (l : List Beat), h.op = some (.record i c 0) → h.sectors[h.active]? = some l → p < l.length →
        i < 26 → h.activeOpen = true → p ≤ 63 →
        Completes (.recordProgramDone true) s (fun t =>
          t.history.word h.active p = (0 : Byte) ++ c.extractLsb' 0 120 ∧ isCommitted (t.history.word h.active p) = true ∧
            (∀ k k', k ≠ h.active ∨ k' ≠ p → t.history.word k k' = h.word k k') ∧ (t.fault i).stored = true ∧
            t.history.queue = ((i :: q).filter fun j => j != i) ∧ t.history.nextPosition = p + 1 ∧
            t.fault 25 =
              afterEvidence (if i = 25 then { s.fault 25 with stored := true } else s.fault 25) s.counts 25 .pass ∧
            (h.nextRecord ≠ BitVec.allOnes 32 → t.history.nextRecord = h.nextRecord + 1) ∧
            t.history.retried = false ∧
            ((∀ e, h.erase = some e → e.phase = .frozen) → GoesOn s waiting h.needActive t) ∧
            OnlyChanges [.faults, .report, .statusWriter, .history, .freeValues] s t ∧ MarksStatus s t) ∧
          Completes (.recordProgramDone false) s (fun t =>
            isCommitted (t.history.word h.active p) = false ∧ isEmptyPosition (t.history.word h.active p) = false ∧
              (∀ k k', k ≠ h.active ∨ k' ≠ p → t.history.word k k' = h.word k k') ∧
              t.history.nextPosition = p + 1 ∧ t.history.nextRecord = h.nextRecord ∧
              Records 25 (detailBytes 0 h.active p) s.timebase s t ∧ t.history.retried = !h.retried ∧
              (h.retried = true → i ∉ t.history.queue ∧ (t.fault i).stored = false) ∧
              (h.retried = false → i ∈ t.history.queue ∧ (t.fault i).stored = (s.fault i).stored ∧
                (p < 63 → t.history.op = some (.record i (content t) 80) ∧ t.history.erase = h.erase ∧
                  t.history.waiting = h.waiting)) ∧
              (h.retried = true ∨ p = 63 → (∀ e, h.erase = some e → e.phase = .frozen) →
                GoesOn s waiting h.needActive t) ∧
              OnlyChanges [.faults, .report, .statusWriter, .history, .freeValues] s t ∧ MarksStatus s t)) ∧
    (∀ s : State,
      s.history.queue = [] ∨ s.history.clearing ≠ none ∨ s.history.disabled = true ∨ s.history.scanning = true →
        Stays .storeRequestServe s) ∧
    (∀ (s : State) (i : Nat) (q : List Nat) (c : Beat) (l : List Beat), FaultsOk s → s.history.queue = i :: q →
      s.history.clearing = some .waiting → s.history.disabled = false → s.history.scanning = false → i < 26 →
      s.history.op = some (.record i c 0) → s.history.sectors[s.history.active]? = some l →
      s.history.nextPosition < l.length →
      let h := s.history
      let p := h.nextPosition
      let clears (t : State) : Prop :=
        ClearBegins s t ∧ t.history.known = h.known ∧ t.history.nextPosition = p + 1 ∧
          (∀ k k', k ≠ h.active ∨ k' ≠ p → t.history.word k k' = h.word k k') ∧
          OnlyChanges [.faults, .report, .statusWriter, .history, .freeValues] s t ∧ MarksStatus s t
      Completes (.recordProgramDone true) s (fun t =>
        clears t ∧ t.history.word h.active p = (0 : Byte) ++ c.extractLsb' 0 120 ∧ (t.fault i).stored = true ∧
          t.history.queue = ((i :: q).filter fun j => j != i) ∧
          (h.nextRecord ≠ BitVec.allOnes 32 → t.history.nextRecord = h.nextRecord + 1)) ∧
        Completes (.recordProgramDone false) s (fun t =>
          clears t ∧ isCommitted (t.history.word h.active p) = false ∧
            isEmptyPosition (t.history.word h.active p) = false ∧ t.history.nextRecord = h.nextRecord ∧
            Records 25 (detailBytes 0 h.active p) s.timebase s t ∧
            (t.fault i).stored = (if h.retried = true then false else (s.fault i).stored) ∧ (i ∈ t.history.queue ↔ h.retried = false))) ∧
    ∀ (number cycle : BitVec 32) (i : Nat) (e : FaultEntry), i < 26 → e.occurrences ≤ 65535 →
      let state : Nat :=
        if isEvent i then 4
        else match e.state with
          | .clear => 0
          | .suspect => 0
          | .active => 2
          | .recovered => 3
      Holds [historyContent number cycle i e] 1
        [(0, 4, number.toNat), (4, 2, cycle.toNat % 2 ^ 16), (6, 1, i), (7, 1, state), (8, 2, e.occurrences),
          (10, 2, (e.lastSequence.getD 0).toNat % 2 ^ 16), (12, 3, (e.lastSeen.getD 0).toNat / 1000 % 2 ^ 24),
          (15, 1, 255)]

/-- A verified header program leaves its marker in the sector and the store's knowledge of it: FULL, and the next ERASED
sector gets the ACTIVE marker with the serial raised by one, or, with none ERASED, the FULL sector with the lowest
serial is listed for erasure; or ACTIVE, and the sector is open from position 1 with the first sector after it that is
not RETIRED erased, being erased or listed. One that fails retires the sector, counts it out and gives STORE_FAULT a
fail; below 3 usable sectors the store is DISABLED with its queue empty and the stored flags of the discarded entries
clear (DEDUCED, log entry 44), else after a FULL marker a new active sector is sought as if the retired one were not
there, and after an ACTIVE marker the need of one stays. What else a store becoming DISABLED drops of what waits is log
entry 46. The header keeps bytes 8 to 15, and the serial unless the marker was ACTIVE. Requests that wait are served in
their order (log entry 27). An erase frozen under the program resumes with 500 µs added, and is asked to suspend again
for a request that waits; it stays frozen under the RETIRED marker that follows a failure, also of a store that becomes
DISABLED (log entry 39). A CLEAR_HISTORY that waited for the program begins at its end, after a failure at the end of
the RETIRED program; a program that ends while a clear erases lets it go on, with an erase in progress resumed; the
ACTIVE marker of a clear ends it, record number 1 and DONE posted, and one that fails is followed by the next ERASED
sector's, or by FAILED. RETIRED is programmed at once (log entry 20), a verified header program gives STORE_FAULT no
pass (log entry 19), and log entry 21 says what a clear does with waiting requests. What these log entries say is the
model's choice. -/
def Obligations.HeaderProgramsRotateTheSectors : Prop :=
  let marked (s : State) (i : Nat) (m : Marker) (t : State) : Prop :=
    (∀ k, k ≠ i → t.history.sectors[k]? = s.history.sectors[k]?) ∧
      (∀ k k', 0 < k' → t.history.word k k' = s.history.word k k') ∧
      (s.history.sectors[i]? ≠ some [] →
        t.history.word i 0 =
          match m with
          | .full => (s.history.word i 0).extractLsb' 32 96 ++ (0xFFFF0000 : BitVec 32)
          | .active n => (s.history.word i 0).extractLsb' 64 64 ++ n ++ (0xFFFFFF00 : BitVec 32)
          | .retired => (s.history.word i 0).extractLsb' 32 96 ++ (0 : BitVec 32))
  let nearest (t : State) (k j : Nat) : Prop :=
    j < 8 ∧ t.history.state j = .erased ∧
      ∀ j', j' < 8 → t.history.state j' = .erased → (j + 7 - k % 8) % 8 ≤ (j' + 7 - k % 8) % 8
  let adds (t : State) (waiting : List ArrayRequest) (need : Option (BitVec 32 × Nat)) (added : List ArrayRequest) :
      Prop :=
    (need = none ∨ (∃ j n, ArrayRequest.header j (.active n) ∈ waiting) → added = []) ∧
      ∀ n k, need = some (n, k) → (∀ j n', ArrayRequest.header j (.active n') ∉ waiting) →
        ((∀ j, j < 8 → t.history.state j ≠ .erased) → added = []) ∧
          ∀ j, nearest t k j → added = [.header j (.active n)]
  let drops (s t : State) : Prop :=
    t.history.disabled = true ∧ t.history.needActive = none ∧ t.history.eraseList = [] ∧ t.history.queue = [] ∧
      (∀ j ∈ s.history.queue, (t.fault j).stored = false) ∧ Records 25 (detailBytes 3 0xFF 0) s.timebase s t ∧
      t.history.waiting = s.history.waiting.filter fun r =>
        match r with
        | .copy _ => true
        | _ => false
  (∀ (s : State) (i : Nat) (m : Marker) (ok : Bool), FaultsOk s → s.history.op = some (.header i m 0) →
    s.history.clearing = none → s.history.disabled = false ∨ m = .retired → s.history.scanning = false →
    i < s.history.sectors.length → i < s.history.known.length → ok = true ∨ m = .retired →
    (∀ e, s.history.erase = some e → e.phase = .frozen) → (m = .full → s.history.serial ≠ BitVec.allOnes 32) →
    let h := s.history
    let need : Option (BitVec 32 × Nat) :=
      match m with
      | .full => some (h.serial + 1, i)
      | .active _ => none
      | .retired => h.needActive
    Completes (.headerProgramDone ok) s fun t =>
      GoesOn s h.waiting need t ∧ t.history.nextRecord = h.nextRecord ∧
        t.history.known =
          (match m with
          | .full => h.known.set i .full
          | .active _ => h.known.set i .active
          | .retired => h.known) ∧
        (ok = true → marked s i m t ∧ t.faults = s.faults ∧ t.history.queue = h.queue) ∧
        OnlyChanges [.faults, .report, .statusWriter, .history, .freeValues] s t ∧ MarksStatus s t) ∧
  (∀ (s : State) (i : Nat) (m : Marker), FaultsOk s → s.history.op = some (.header i m 0) → s.history.clearing = none →
    s.history.disabled = false → s.history.scanning = false → i < s.history.sectors.length →
    i < s.history.known.length → m ≠ .retired → (m = .full → s.history.serial ≠ BitVec.allOnes 32) →
    let h := s.history
    Completes (.headerProgramDone false) s fun t =>
      t.history.known = h.known.set i .retired ∧ t.history.usable = h.usable - 1 ∧
        t.history.op = some (.header i .retired 80) ∧ t.history.erase = h.erase ∧
        (if h.usable - 1 < 3 then
          drops s t
        else
          t.history.disabled = false ∧ Records 25 (detailBytes 1 i 0) s.timebase s t ∧
            t.history.needActive = (if m = .full then some (h.serial + 1, i) else h.needActive) ∧
            (t.history.needActive ≠ none → (∀ j, j < 8 → t.history.state j ≠ .erased) →
              ∀ j, j < 8 → t.history.state j = .full →
                (∀ k, k < 8 → k ≠ j → t.history.state k = .full →
                  (headerSerial (t.history.word j 0)).toNat < (headerSerial (t.history.word k 0)).toNat) →
                j ∈ t.history.eraseList ∨ ∃ e, h.erase = some e ∧ e.sector = j) ∧
            ∃ added, t.history.waiting = h.waiting ++ added ∧
              adds t h.waiting (if m = .full then some (h.serial + 1, i) else none) added) ∧
        OnlyChanges [.faults, .report, .statusWriter, .history, .freeValues] s t ∧ MarksStatus s t) ∧
  (∀ (s : State) (i : Nat) (m : Marker), FaultsOk s → s.history.op = some (.header i m 0) → s.history.clearing = none →
    s.history.disabled = false → s.history.scanning = false → s.history.waiting = [] → s.history.erase = none →
    i < s.history.sectors.length → i < s.history.known.length →
    let h := s.history
    Completes (.headerProgramDone true) s (fun t =>
      (∀ k, k ≠ i → t.history.sectors[k]? = h.sectors[k]?) ∧
        (∀ k k', 0 < k' → t.history.word k k' = h.word k k') ∧ (∀ k, k ≠ i → t.history.state k = h.state k) ∧
        (h.sectors[i]? ≠ some [] →
          t.history.word i 0 =
            match m with
            | .full => (h.word i 0).extractLsb' 32 96 ++ (0xFFFF0000 : BitVec 32)
            | .active n => (h.word i 0).extractLsb' 64 64 ++ n ++ (0xFFFFFF00 : BitVec 32)
            | .retired => (h.word i 0).extractLsb' 32 96 ++ (0 : BitVec 32)) ∧
        (match m with
        | .full =>
          t.history.state i = .full ∧ t.history.activeOpen = false ∧
            (∀ j, j < 8 → j ≠ i → h.state j = .erased →
              (∀ k, k < 8 → h.state k = .erased → (j + 7 - i % 8) % 8 ≤ (k + 7 - i % 8) % 8) →
              h.serial ≠ BitVec.allOnes 32 → i < 8 →
              t.history.op = some (.header j (.active (h.serial + 1)) 80)) ∧
            ((∀ j, j < 8 → t.history.state j ≠ .erased) →
              t.history.op = none ∧ t.history.waiting = [] ∧
                t.history.needActive.map Prod.snd = some i ∧
                (h.serial ≠ BitVec.allOnes 32 → t.history.needActive = some (h.serial + 1, i)) ∧
                ∀ j, j < 8 → t.history.state j = .full →
                  (∀ k, k < 8 → k ≠ j → t.history.state k = .full →
                    (headerSerial (t.history.word j 0)).toNat < (headerSerial (t.history.word k 0)).toNat) →
                  j ∈ t.history.eraseList)
        | .active n =>
          t.history.state i = .active ∧ t.history.active = i ∧ t.history.serial = n ∧ t.history.nextPosition = 1 ∧
            t.history.activeOpen = true ∧ t.history.needActive = none ∧
            ∀ j, ((List.range 8).map fun k => (i + 1 + k) % 8).find? (fun k => k != i && h.state k != .retired) = some j →
              h.state j = .erased ∨ j ∈ t.history.eraseList
        | .retired => t.history.known = h.known) ∧
        t.faults = s.faults ∧ t.report.backlog = s.report.backlog ∧ t.history.queue = h.queue ∧
        OnlyChanges [.history, .freeValues] s t ∧ MarksStatus s t) ∧
      Completes (.headerProgramDone false) s (fun t =>
        (∀ k, k ≠ i → t.history.sectors[k]? = h.sectors[k]?) ∧
          (∀ k k', 0 < k' → t.history.word k k' = h.word k k') ∧
          (t.history.word i 0).extractLsb' 64 64 = (h.word i 0).extractLsb' 64 64 ∧
          ((∀ n, m ≠ .active n) →
            (t.history.word i 0).extractLsb' 32 96 = (h.word i 0).extractLsb' 32 96) ∧
          (m ≠ .retired →
            t.history.state i = .retired ∧ t.history.usable = h.usable - 1 ∧
              t.history.op = some (.header i .retired 80) ∧
              (if h.usable - 1 < 3 then
                t.history.disabled = true ∧ t.history.queue = [] ∧ t.history.eraseList = [] ∧
                  (∀ j ∈ h.queue, (t.fault j).stored = false) ∧ Records 25 (detailBytes 3 0xFF 0) s.timebase s t
              else t.history.disabled = false ∧ Records 25 (detailBytes 1 i 0) s.timebase s t)) ∧
          (i ∉ h.eraseList → i ∉ t.history.eraseList) ∧
          (m = .full → 3 ≤ h.usable - 1 → i < 8 → h.serial ≠ BitVec.allOnes 32 →
            t.history.activeOpen = false ∧ t.history.needActive = some (h.serial + 1, i) ∧
              (∀ j, j < 8 → j ≠ i → h.state j = .erased →
                (∀ k, k < 8 → k ≠ i → h.state k = .erased → (j + 7 - i) % 8 ≤ (k + 7 - i) % 8) →
                t.history.waiting = [.header j (.active (h.serial + 1))]) ∧
              ((∀ j, j < 8 → t.history.state j ≠ .erased) →
                t.history.waiting = [] ∧
                  ∀ j, j < 8 → t.history.state j = .full →
                    (∀ k, k < 8 → k ≠ j → t.history.state k = .full →
                      (headerSerial (t.history.word j 0)).toNat < (headerSerial (t.history.word k 0)).toNat) →
                    j ∈ t.history.eraseList)) ∧
          (m = .retired →
            t.history.known = h.known ∧ t.history.usable = h.usable ∧ Records 25 (detailBytes 1 i 0) s.timebase s t) ∧
          OnlyChanges [.faults, .report, .statusWriter, .history, .freeValues] s t ∧ MarksStatus s t)) ∧
    (∀ (s : State) (i : Nat) (m : Marker) (e : Erase), FaultsOk s → s.history.op = some (.header i m 0) →
      s.history.clearing = none → s.history.disabled = false → s.history.scanning = false → s.history.waiting = [] →
      s.history.erase = some e → e.phase = .frozen → i < s.history.sectors.length → i < s.history.known.length →
      let h := s.history
      let resumed (t : State) : Prop :=
        t.history.op = none ∧
          ∃ e', t.history.erase = some e' ∧ e'.sector = e.sector ∧ e'.remaining = e.remaining + 500 ∧
            e'.suspensions = e.suspensions ∧
            e'.phase = (if t.history.waiting ≠ [] ∧ e.suspensions < 16 then .requested else .running)
      Completes (.headerProgramDone true) s (fun t =>
        marked s i m t ∧ resumed t ∧
          (match m with
          | .full =>
            t.history.state i = .full ∧
              ∀ j, j < 8 → j ≠ i → h.state j = .erased →
                (∀ k, k < 8 → h.state k = .erased → (j + 7 - i % 8) % 8 ≤ (k + 7 - i % 8) % 8) →
                h.serial ≠ BitVec.allOnes 32 → i < 8 →
                t.history.waiting = [.header j (.active (h.serial + 1))]
          | .active n =>
            t.history.state i = .active ∧ t.history.active = i ∧ t.history.serial = n ∧ t.history.nextPosition = 1 ∧
              t.history.activeOpen = true ∧ t.history.needActive = none ∧
              t.history.waiting = (if h.queue = [] then [] else [.record])
          | .retired => t.history.known = h.known) ∧
          t.faults = s.faults ∧ t.history.queue = h.queue ∧
          OnlyChanges [.history, .freeValues] s t ∧ MarksStatus s t) ∧
        Completes (.headerProgramDone false) s (fun t =>
          (m = .retired → resumed t) ∧
            (m ≠ .retired → t.history.state i = .retired ∧ t.history.op = some (.header i .retired 80) ∧
              t.history.erase = some e ∧ (t.history.disabled = true ↔ h.usable - 1 < 3)) ∧
            OnlyChanges [.faults, .report, .statusWriter, .history, .freeValues] s t ∧ MarksStatus s t)) ∧
    ∀ (s : State) (i : Nat) (m : Marker) (c : ClearPhase), FaultsOk s → s.history.op = some (.header i m 0) →
      s.history.clearing = some c → s.history.disabled = false → s.history.scanning = false →
      (∀ e, s.history.erase = some e → e.phase = .frozen) → i < s.history.sectors.length →
      i < s.history.known.length →
      let h := s.history
      let left (t : State) : Prop := ∃ j, j < 8 ∧ t.history.state j ≠ .erased ∧ t.history.state j ≠ .retired
      let lowest (t : State) : Prop :=
        ∀ j, j < 8 → t.history.state j = .erased → (∀ k, k < j → t.history.state k ≠ .erased) →
          t.history.op = some (.header j (.active 1) 80)
      let resumed (e : Erase) : Erase := { e with phase := .running, remaining := e.remaining + 500 }
      let goesOn (t : State) : Prop :=
        t.history.nextRecord = h.nextRecord ∧ t.history.eraseList = h.eraseList ∧
          t.history.erase = h.erase.map resumed ∧
          (left t ∨ h.erase.isSome = true →
            t.history.clearing = some .erasing ∧ t.history.waiting = [] ∧ t.history.op = none) ∧
          (¬left t → h.erase = none → t.history.clearing = some .marking ∧ lowest t)
      let retires (t : State) : Prop :=
        t.history.known = h.known.set i .retired ∧ t.history.usable = h.usable - 1 ∧
          t.history.nextRecord = h.nextRecord ∧ t.history.op = some (.header i .retired 80) ∧
          t.history.erase = h.erase ∧
          (if h.usable - 1 < 3 then
            drops s t ∧ t.history.clearing = none ∧
              ∀ q, s.attach.inFlight = some (.clearHistory, q) →
                t.attach.inFlight = none ∧ t.attach.completion = ⟨q, .failed, 0, true⟩
          else
            t.history.disabled = false ∧ t.history.clearing = some c ∧ t.history.waiting = h.waiting ∧
              t.attach = s.attach ∧ Records 25 (detailBytes 1 i 0) s.timebase s t) ∧
          OnlyChanges [.attach, .path, .faults, .report, .statusWriter, .history, .freeValues] s t ∧ MarksStatus s t
      (m ≠ .retired → Completes (.headerProgramDone false) s retires) ∧
        (c = .erasing → h.waiting = [] → h.needActive = none → (∀ n, m ≠ .active n) →
          Completes (.headerProgramDone true) s (fun t =>
            marked s i m t ∧ goesOn t ∧ t.history.known = (if m = .full then h.known.set i .full else h.known) ∧
              t.history.queue = h.queue ∧ t.faults = s.faults ∧
              OnlyChanges [.history, .freeValues] s t ∧ MarksStatus s t) ∧
            (m = .retired → Completes (.headerProgramDone false) s fun t =>
              goesOn t ∧ t.history.known = h.known ∧ t.history.usable = h.usable ∧
                Records 25 (detailBytes 1 i 0) s.timebase s t ∧
                OnlyChanges [.faults, .report, .statusWriter, .history, .freeValues] s t ∧ MarksStatus s t)) ∧
        (c = .waiting → ∀ ok, ok = true ∨ m = .retired → Completes (.headerProgramDone ok) s fun t =>
          ClearBegins s t ∧ t.history.nextRecord = h.nextRecord ∧
            t.history.known =
              (match m with
              | .full => h.known.set i .full
              | .active _ => h.known.set i .active
              | .retired => h.known) ∧
            (ok = true → marked s i m t ∧ t.history.queue = h.queue ∧ t.faults = s.faults) ∧
            (ok = false → t.history.usable = h.usable ∧ Records 25 (detailBytes 1 i 0) s.timebase s t) ∧
            OnlyChanges [.faults, .report, .statusWriter, .history, .freeValues] s t ∧ MarksStatus s t) ∧
        (c = .marking → ∀ n, m = .active n → Completes (.headerProgramDone true) s fun t =>
          marked s i m t ∧ GoesOn s h.waiting none t ∧ t.history.clearing = none ∧ t.history.state i = .active ∧
            t.history.active = i ∧ t.history.serial = n ∧ t.history.nextPosition = 1 ∧ t.history.nextRecord = 1 ∧
            t.history.activeOpen = true ∧ t.history.needActive = none ∧ t.history.queue = h.queue ∧
            (∀ q, s.attach.inFlight = some (.clearHistory, q) →
              t.attach.inFlight = none ∧ t.attach.completion = ⟨q, .done, 0, true⟩ ∧
                (.completion ∈ t.attach.wanted ∨ t.ownQueued .completionResult = true)) ∧
            ((∀ q, s.attach.inFlight ≠ some (.clearHistory, q)) → t.attach = s.attach ∧ t.path = s.path) ∧
            t.faults = s.faults ∧ OnlyChanges [.attach, .path, .history] s t ∧ MarksStatus s t) ∧
        (c = .marking → ∀ ok, m = .retired → h.waiting = [] → h.needActive = some (1, 7) →
          Completes (.headerProgramDone ok) s fun t =>
            t.history.clearing = some .marking ∧ t.attach = s.attach ∧ t.history.erase = h.erase.map resumed ∧
              (h.erase = none → lowest t) ∧ (h.erase.isSome = true → t.history.op = none))

/-- An erase of the next listed sector starts when the array is free, for 30 ms; a requested suspension takes effect,
freezes the remaining time and serves one request; and an erase whose time has run out ends ERASED, or fails: the sector
is then retired and counted out and STORE_FAULT fails, and a look-ahead sector is replaced by the next one, listed
unless it is ERASED. The first sector whose erase ends ERASED while a new active sector is needed and none is ERASED
becomes that sector. During a CLEAR_HISTORY the next sector left is erased, and with none left the lowest ERASED sector
gets the ACTIVE marker with serial 1; below 3 usable sectors FAILED is posted. At the end the requests that wait are
served in their order (log entry 27). In a DISABLED store an erase in progress ends in the same way, without a pass (log
entry 39), and a store becoming DISABLED drops what waits but copies (log entry 46). A suspension requested before the
end of an erase whose time has run out holds the end back (R154). One requested earlier may take effect at a remaining
time of 0, or the erase end first (log entry 12). Entries that a store becoming DISABLED discards have their stored
flags clear (DEDUCED, log entry 44). The marker of the retired sector is programmed at once (log entry 20), the
remaining time is kept in ticks (log entry 12), an erase begun reads INVALID (log entry 7), and the position byte of a
failed erase is 0 (log entry 38); these are the model's choices. -/
def Obligations.ErasesRunAndSuspend : Prop :=
  ∀ s : State, FaultsOk s →
    let h := s.history
    let next : Option Nat :=
      if h.op.isSome = true ∨ h.erase.isSome = true ∨ h.waiting ≠ [] ∨ h.scanning = true ∨ h.disabled = true then none
      else
        match h.clearing with
        | some .waiting => none
        | some .marking => none
        | some .erasing => (List.range 8).find? fun i => h.state i != .retired && h.state i != .erased
        | none => h.eraseList.head?
    let served (t : State) : Prop := GoesOn (s.setHistory { h with erase := none }) h.waiting h.needActive t
    (match next with
      | none => Stays .eraseStart s
      | some i =>
        Completes .eraseStart s fun t =>
          t.history =
              { h with
                sectors := t.history.sectors
                known := h.known.set i .invalid
                eraseList := h.eraseList.filter fun j => j != i
                erase := some { sector := i, remaining := 30000, suspensions := 0, phase := .running, late := false } } ∧
            (∀ k, k ≠ i → t.history.sectors[k]? = h.sectors[k]?) ∧
            (i < h.sectors.length → headerState (t.history.word i 0) = .invalid) ∧
            OnlyChanges [.history, .freeValues] s t ∧ MarksStatus s t) ∧
      (∀ (e : Erase) (r : ArrayRequest) (rest : List ArrayRequest), h.erase = some e → h.waiting = r :: rest →
        if e.phase = .requested ∧ h.op = none then
          Completes .eraseSuspendEffect s fun t =>
            t.history =
                { h with
                  waiting := rest
                  op := t.history.op
                  erase := some { e with phase := .frozen, suspensions := e.suspensions + 1 } } ∧
              t.history.op =
                (match r with
                | .record =>
                  h.queue.head?.map fun i => .record i (historyContent h.nextRecord s.attach.driveCycle i (s.fault i)) 80
                | .header i m => some (.header i m 80)
                | .copy i => some (.copy i)) ∧
              OnlyChanges [.history] s t ∧ MarksStatus s t
        else Stays .eraseSuspendEffect s) ∧
      (h.erase = none ∨ h.waiting = [] → Stays .eraseSuspendEffect s) ∧
      (∀ ok, (∀ e, h.erase = some e → e.phase = .frozen ∨ 0 < e.remaining ∨ (e.phase = .requested ∧ e.late = true)) →
        Stays (.eraseDone ok) s) ∧
      ∀ e, h.erase = some e → e.phase = .running ∨ (e.phase = .requested ∧ e.late = false) → e.remaining = 0 →
        (h.clearing = some .erasing → h.disabled = false → h.scanning = false → h.op = none → h.waiting = [] →
          h.eraseList = [] → h.needActive = none → e.sector < h.known.length →
          let left (t : State) : Prop := ∃ j, j < 8 ∧ t.history.state j ≠ .erased ∧ t.history.state j ≠ .retired
          Completes (.eraseDone true) s (fun t =>
            t.history.erase = none ∧ t.history.known = h.known.set e.sector .erased ∧
              t.history.sectors = h.sectors.set e.sector (List.replicate 64 (BitVec.allOnes 128)) ∧
              Gives 25 .pass s t ∧ t.history.nextRecord = h.nextRecord ∧ t.history.eraseList = [] ∧
              (left t → t.history.clearing = some .erasing ∧ t.history.op = none ∧ t.history.waiting = []) ∧
              (¬left t → t.history.clearing = some .marking ∧
                ∀ j, j < 8 → t.history.state j = .erased → (∀ k, k < j → t.history.state k ≠ .erased) →
                  t.history.op = some (.header j (.active 1) 80)) ∧
              OnlyChanges [.faults, .report, .statusWriter, .history] s t ∧ MarksStatus s t) ∧
            Completes (.eraseDone false) s (fun t =>
              t.history.erase = none ∧ t.history.known = h.known.set e.sector .retired ∧
                t.history.usable = h.usable - 1 ∧ t.history.op = some (.header e.sector .retired 80) ∧
                (if h.usable - 1 < 3 then
                  t.history.disabled = true ∧ t.history.clearing = none ∧ t.history.queue = [] ∧
                    (∀ j ∈ h.queue, (t.fault j).stored = false) ∧ Records 25 (detailBytes 3 0xFF 0) s.timebase s t ∧
                    ∀ q, s.attach.inFlight = some (.clearHistory, q) →
                      t.attach.inFlight = none ∧ t.attach.completion = ⟨q, .failed, 0, true⟩
                else
                  t.history.disabled = false ∧ t.attach = s.attach ∧
                    Records 25 (detailBytes 2 e.sector 0) s.timebase s t ∧
                    (left t → t.history.clearing = some .erasing ∧ t.history.waiting = []) ∧
                    (¬left t → t.history.clearing = some .marking ∧
                      ∀ j, j < 8 → t.history.state j = .erased → (∀ k, k < j → t.history.state k ≠ .erased) →
                        t.history.waiting = [.header j (.active 1)])) ∧
                OnlyChanges [.attach, .path, .faults, .report, .statusWriter, .history] s t ∧ MarksStatus s t)) ∧
        (h.clearing = none → h.disabled = true →
          Completes (.eraseDone true) s (fun t =>
            t.history.known = h.known.set e.sector .erased ∧
              t.history.sectors = h.sectors.set e.sector (List.replicate 64 (BitVec.allOnes 128)) ∧
              t.history.usable = h.usable ∧ t.history.disabled = true ∧
              (h.op = none → h.scanning = false → served t) ∧
              OnlyChanges [.history] s t ∧ MarksStatus s t) ∧
            Completes (.eraseDone false) s (fun t =>
              t.history.erase = none ∧ t.history.known = h.known.set e.sector .retired ∧
                t.history.sectors = h.sectors ∧ t.history.usable = h.usable - 1 ∧ t.history.disabled = true ∧
                t.history.op = some (.header e.sector .retired 80) ∧
                (h.needActive = none → t.history.waiting = h.waiting ∧ t.history.eraseList = h.eraseList) ∧
                t.faults = (s.evidence 25 (.fail (detailBytes 2 e.sector 0) none s.timebase)).faults ∧
                OnlyChanges [.faults, .report, .statusWriter, .history] s t ∧ MarksStatus s t)) ∧
        (h.clearing = none → h.disabled = false →
        Completes (.eraseDone true) s (fun t =>
          t.history.erase = none ∧ t.history.known = h.known.set e.sector .erased ∧
            t.history.sectors = h.sectors.set e.sector (List.replicate 64 (BitVec.allOnes 128)) ∧
            t.history.usable = h.usable ∧ Gives 25 .pass s t ∧
            t.history.queue = h.queue ∧ (h.op = none → h.scanning = false → served t) ∧
            (∀ n k, h.needActive = some (n, k) → h.waiting = [] → h.op = none → h.scanning = false →
              (∀ j, j < 8 → h.state j ≠ .erased) → e.sector < 8 → e.sector < h.known.length →
              t.history.op = some (.header e.sector (.active n) 80)) ∧
            OnlyChanges [.faults, .report, .statusWriter, .history] s t ∧ MarksStatus s t) ∧
          Completes (.eraseDone false) s (fun t =>
            t.history.erase = none ∧ t.history.known = h.known.set e.sector .retired ∧
              t.history.sectors = h.sectors ∧ t.history.usable = h.usable - 1 ∧
              t.history.op = some (.header e.sector .retired 80) ∧
              (3 ≤ h.usable - 1 →
                let first (x : History) (j : Nat) : Prop :=
                  j < 8 ∧ j ≠ h.active ∧ x.state j ≠ .retired ∧
                    ∀ k, k < 8 → k ≠ h.active → x.state k ≠ .retired →
                      (j + 7 - h.active % 8) % 8 ≤ (k + 7 - h.active % 8) % 8
                h.eraseList <+: t.history.eraseList ∧
                  (first h e.sector → ∀ j, first t.history j → t.history.state j = .erased ∨ j ∈ t.history.eraseList) ∧
                  (¬first h e.sector → h.needActive = none → t.history.eraseList = h.eraseList)) ∧
              (if h.usable - 1 < 3 then
                t.history.disabled = true ∧ t.history.queue = [] ∧ t.history.needActive = none ∧
                  (t.history.waiting = h.waiting.filter fun r =>
                    match r with
                    | .copy _ => true
                    | _ => false) ∧
                  (∀ j ∈ h.queue, (t.fault j).stored = false) ∧ Records 25 (detailBytes 3 0xFF 0) s.timebase s t
              else t.history.disabled = false ∧ Records 25 (detailBytes 2 e.sector 0) s.timebase s t) ∧
              OnlyChanges [.faults, .report, .statusWriter, .history] s t ∧ MarksStatus s t))

/-- A header spells its sector's state as R143 and R181 give it. The scan, which leaves the store DISABLED below 3
usable sectors with the discarded entries' stored flags clear (DEDUCED, log entry 44), finds the usable count, the
active sector, the next position and record number and the INVALID sectors, which are listed for erasure in index order
with the look-ahead sector after them, and STORE_FAULT fails below 3 usable sectors. A copy that waited for the scan is
served at its end, before the markers it asks for (log entry 27), also by a DISABLED store, which drops what else waits
(log entry 46). The next position is the one after the last that is not empty; a full active sector gets its FULL
marker, and with no ACTIVE or FULL sector the lowest ERASED one gets the ACTIVE marker with serial 1. A copy's sector,
read as it stands, goes out as 64 beats to the address of the copy, after the write of an abandoned one (the wait is log
entry 32); the end of the reading frees the array: a frozen erase resumes, the requests that wait are served in their
order (log entry 27), and a CLEAR_HISTORY that waited begins (log entry 21); its answer posts DONE or FAILED, an
abandoned copy's nothing, and an error makes MEMORY_ERROR occur. -/
def Obligations.ScansAndCopiesEnd : Prop :=
  ∀ s : State, FaultsOk s → StoreQueueOk s →
    let h := s.history
    let stateOf (i : Nat) : SectorState := headerState (h.word i 0)
    let serialOf (i : Nat) : Nat := (headerSerial (h.word i 0)).toNat
    let used (i : Nat) : Prop := i < 8 ∧ (stateOf i = .active ∨ stateOf i = .full)
    let committed (n : Nat) : Prop :=
      ∃ i k w, used i ∧ 1 ≤ k ∧ h.sectors[i]?.bind (fun l => l[k]?) = some w ∧ isCommitted w = true ∧
        n = (w.extractLsb' 0 32).toNat
    (∀ w : Beat,
      let marker := w.toNat % 2 ^ 32
      let serial := w.toNat / 2 ^ 32 % 2 ^ 32
      (headerState w = .erased ↔ w = BitVec.allOnes 128) ∧
        (headerState w = .active ↔ marker = 0xFFFFFF00 ∧ serial ≠ 0xFFFFFFFF) ∧
        (headerState w = .full ↔ marker = 0xFFFF0000) ∧ (headerState w = .retired ↔ marker = 0) ∧
        (headerSerial w).toNat = serial ∧ (isCommitted w = true ↔ w.toNat / 2 ^ 120 = 0) ∧
        (isEmptyPosition w = true ↔ w = BitVec.allOnes 128)) ∧
    (h.scanning = false → Stays .scanDone s) ∧
      (h.scanning = true → h.sectors.length = 8 → (∀ l ∈ h.sectors, l.length = 64) → h.op = none → h.erase = none →
        h.clearing = none → h.disabled = false →
        Completes .scanDone s fun t =>
          let y := t.history
          let invalid := (List.range 8).filter fun i => decide (stateOf i = .invalid)
          y.scanning = false ∧ y.usable = ((List.range 8).filter fun i => decide (stateOf i ≠ .retired)).length ∧
            (y.disabled = true ↔ y.usable < 3) ∧
            (y.usable < 3 →
              (∀ j ∈ h.queue, (t.fault j).stored = false) ∧ y.queue = [] ∧ y.needActive = none ∧
                Records 25 (detailBytes 3 0xFF 0) s.timebase s t ∧
                GoesOn s
                  (h.waiting.filter fun r =>
                    match r with
                    | .copy _ => true
                    | _ => false)
                  none t) ∧
            y.sectors = h.sectors ∧ y.lock = h.lock ∧
            ((∀ n, committed n → n ≠ 2 ^ 32 - 1) →
              (∀ n, committed n → n < y.nextRecord.toNat) ∧
                (y.nextRecord = 1 ∨ ∃ n, committed n ∧ n + 1 = y.nextRecord.toNat)) ∧
            (∀ i, used i → (∀ j, used j → serialOf j < serialOf i ∨ (serialOf j = serialOf i ∧ i ≤ j)) →
              y.active = i ∧ y.serial.toNat = serialOf i ∧ y.activeOpen = true ∧
                (∀ j, j < 8 → y.state j = if stateOf j = .active ∧ j ≠ i then .full else stateOf j) ∧
                1 ≤ y.nextPosition ∧ y.nextPosition ≤ 64 ∧
                (y.nextPosition = 1 ∨ isEmptyPosition (h.word i (y.nextPosition - 1)) = false) ∧
                (∀ k, y.nextPosition ≤ k → k < 64 → isEmptyPosition (h.word i k) = true) ∧
                (3 ≤ y.usable →
                  GoesOn s
                    (if y.nextPosition = 64 ∧ ArrayRequest.header i .full ∉ h.waiting then
                      h.waiting ++ [.header i .full]
                    else h.waiting)
                    none t) ∧
                ∀ j, 3 ≤ y.usable → j < 8 → j ≠ i → y.state j ≠ .retired →
                  (∀ k, k < 8 → k ≠ i → y.state k ≠ .retired → (j + 7 - i) % 8 ≤ (k + 7 - i) % 8) →
                  y.eraseList = if y.state j = .erased ∨ y.state j = .invalid then invalid else invalid ++ [j]) ∧
            ((∀ i, ¬used i) →
              y.activeOpen = false ∧ y.nextPosition = 1 ∧ (∀ j, j < 8 → y.state j = stateOf j) ∧
                (3 ≤ y.usable →
                  y.eraseList = invalid ∧
                    GoesOn s h.waiting (some (1, 7)) t ∧ y.needActive = some (1, 7) ∧
                    (h.waiting = [] → ∀ i, i < 8 → stateOf i = .erased → (∀ j, j < i → stateOf j ≠ .erased) →
                      y.op = some (.header i (.active 1) 80)))) ∧
            (∀ i, i < 8 → stateOf i = .invalid → 3 ≤ y.usable → i ∈ y.eraseList) ∧ (y.usable < 3 → y.eraseList = []) ∧
            OnlyChanges [.faults, .report, .statusWriter, .history, .freeValues] s t ∧ MarksStatus s t) ∧
      ((∀ i, h.op ≠ some (.copy i)) → Stays .historyCopyReadDone s) ∧
      (∀ i, h.op = some (.copy i) →
        Completes .historyCopyReadDone s fun t =>
          (if h.copyFlight = none then
            t.history.copyFlight = some ⟨false⟩ ∧ t.history.copyData = none ∧
              t.path =
                { s.path with
                  own := s.path.own ++
                    [{ src := .copy, addr := h.copyAddr, len := 64, data := (h.sectors.getD i []).map .full }] }
          else
            t.history.copyFlight = h.copyFlight ∧ t.history.copyData = some (h.sectors.getD i []) ∧ t.path = s.path) ∧
            (h.clearing = none →
              t.history =
                { h with
                  op := t.history.op
                  waiting := t.history.waiting
                  erase := t.history.erase
                  copyFlight := t.history.copyFlight
                  copyData := t.history.copyData }) ∧
            (h.scanning = false → (∀ e, h.erase = some e → e.phase = .frozen) →
              (h.clearing = none → GoesOn s h.waiting h.needActive t) ∧
                (h.clearing = some .waiting → ClearBegins s t ∧ t.history.nextRecord = h.nextRecord)) ∧
            t.history.sectors = h.sectors ∧ t.history.known = h.known ∧ t.history.queue = h.queue ∧
            OnlyChanges [.path, .history] s t ∧ MarksStatus s t) ∧
      ∀ (r : Resp) (d : DownWrite) (f : Flight), r ≠ .exokay → s.ownAnswered .copy = some d → h.copyFlight = some f →
        Completes (.historyCopyWriteResponse r) s fun t =>
          let error : Prop := r = .slverr ∨ r = .decerr
          t.path.downW = s.path.downW.eraseP (fun e => e.a.id == 0x3D) ∧
            (error → Occurs 23 (detailAddress 7 0xFF d.a.addr) s t) ∧ (¬error → t.faults = s.faults) ∧
            (∀ n, f.void = false → s.attach.inFlight = some (.copyHistory, n) →
              t.attach.inFlight = none ∧ (error → t.attach.completion = ⟨n, .failed, 0, true⟩) ∧
                (¬error → t.attach.completion = ⟨n, .done, 0, true⟩) ∧
                (.completion ∈ t.attach.wanted ∨ t.ownQueued .completionResult = true)) ∧
            (f.void = true → t.attach = s.attach) ∧
            (match h.copyData with
            | some data =>
              t.history.copyFlight = some ⟨false⟩ ∧ t.history.copyData = none ∧
                { src := .copy, addr := h.copyAddr, len := 64, data := data.map .full } ∈ t.path.own
            | none => t.history.copyFlight = none) ∧
            t.history.sectors = h.sectors ∧
            OnlyChanges [.attach, .path, .faults, .report, .statusWriter, .history] s t ∧ MarksStatus s t

/-! ## Translation (chapter 4) -/

/-- The translation of R60: a view offset inside the window goes to the pixel at the pan origin, inside the slot; a
16-byte beat stays a 16-byte beat of one slot line, and every piece of a burst lies in the slot at its base. -/
def Obligations.TranslationStaysInsideTheSlot : Prop :=
  ∀ (g : Geometry) (px py o : Nat), 0 < g.vw → g.vw % 32 = 0 → g.vw ≤ g.w → g.vh ≤ g.h → px % 8 = 0 → px ≤ g.w - g.vw →
    py ≤ g.h - g.vh → o < g.vw * g.vh * 2 →
    let r := o / (g.vw * 2)
    let x := o % (g.vw * 2)
    let q := slotOffset g (px, py) o
    q = (r + py) * g.w * 2 + px * 2 + x ∧ q / (g.w * 2) = r + py ∧ q % (g.w * 2) = px * 2 + x ∧ r < g.vh ∧
      r + py ≤ g.h - 1 ∧ px * 2 + x ≤ (g.w - g.vw) * 2 + g.vw * 2 - 1 ∧ q < g.w * g.h * 2 ∧
      (o % 16 = 0 → g.w % 32 = 0 →
        q % 16 = 0 ∧ ∀ k, k < 16 → slotOffset g (px, py) (o + k) = q + k ∧ (q + k) / (g.w * 2) = q / (g.w * 2) ∧
          (o + k) / (g.vw * 2) = r) ∧
      ∀ (base : Addr) (n : Nat) (p : Piece), 1 ≤ n → p ∈ splitBurst g (px, py) base o n →
        p.addr = BitVec.ofNat 36 (base.toNat + p.slotOffset) ∧ p.slotOffset = slotOffset g (px, py) p.viewOffset ∧
          (o % 16 = 0 → g.w % 32 = 0 → o + 16 * n ≤ g.vw * g.vh * 2 → p.slotOffset + 16 * p.len ≤ g.w * g.h * 2)

/-! ## Invariants -/

/-- Every step keeps at most 16 bursts outstanding in each direction, each with a tag of its own (the tags are the
model's). -/
def Obligations.StepsKeepOutstandingBounds : Prop :=
  ∀ s t : State, OutstandingOk s ∧ TagsOk s → step s = .next t → OutstandingOk t ∧ TagsOk t

/-- Every step keeps the fault table as its kinds can be, and the queue of a DISABLED store empty. -/
def Obligations.StepsKeepFaultTable : Prop :=
  ∀ s t : State, FaultsOk s ∧ StoreQueueOk s → step s = .next t → FaultsOk t ∧ StoreQueueOk t

/-- Every step keeps the report backlog the list of the unreported entries, each once, and the ring at no more than 64
unacknowledged records, with room for a record write that can complete. -/
def Obligations.StepsKeepBacklogAndRing : Prop :=
  ∀ s t : State, BacklogOk s ∧ RingOk s → step s = .next t → BacklogOk t ∧ RingOk t

/-- Every step keeps the slot tables and view records: what a slot holds by its state, at most one slot FILLING, SHOWN
and PINNED each, as the pointers say, and nothing shown, filling or pending in a STOPPED view. Every step keeps the
frames of a view that has slots from having no area. -/
def Obligations.StepsKeepViews : Prop :=
  (∀ s t : State, ViewsOk s → step s = .next t → ViewsOk t) ∧
    ∀ s t : State, SlotAreasOk s → step s = .next t → SlotAreasOk t

/-- Every step keeps a view that has left STARTING and is not STOPPED BLANKED exactly while a SAFETY entry of it is
ACTIVE; the glare lists within 24 entries, no tile twice, and a STOPPED view's empty; the held mode in force; and the PWM
counter and pairs in range. -/
def Obligations.StepsKeepBlankingAndOutputs : Prop :=
  ∀ s t : State, BlankingOk s ∧ GlareOk s ∧ HoldOk s ∧ PwmOk s → step s = .next t →
    BlankingOk t ∧ GlareOk t ∧ HoldOk t ∧ PwmOk t

/-- The state after reset satisfies every one of the invariants. -/
def Obligations.ResetStateSatisfiesInvariants : Prop :=
  let s := State.reset
  OutstandingOk s ∧ TagsOk s ∧ FaultsOk s ∧ StoreQueueOk s ∧ BacklogOk s ∧ RingOk s ∧ BlankingOk s ∧ ViewsOk s ∧
    SlotAreasOk s ∧ GlareOk s ∧ HoldOk s ∧ PwmOk s
end

