-- ==== Sys2Proof/Laws/Bytes.lean ====
section
/-! SUPPORT. The bytes of a record (R179): what a beat built from bytes holds, and what a field of a block built from
bytes reads as. -/

namespace Sys2Proof.Machine

/-- The bytes of a word shifted together from the last byte to the first. -/
theorem byteOf_foldr (l : List Byte) (w : Nat) (i : Nat) (hi : 8 * (i + 1) ≤ w) :
    byteOf (l.foldr (fun b (acc : BitVec w) => (acc <<< 8) ||| b.setWidth w) 0) i = l.getD i 0 := by
  induction l generalizing i with
  | nil => simp [byteOf]
  | cons b l ih =>
    cases i with
    | zero =>
      apply BitVec.eq_of_getLsbD_eq
      intro k hk
      simp [byteOf, BitVec.getLsbD_shiftLeft, BitVec.getLsbD_setWidth, hk]
      intro h; omega
    | succ i =>
      have := ih i (by omega)
      simp only [List.getD_cons_succ, ← this]
      apply BitVec.eq_of_getLsbD_eq
      intro k hk
      have h1 : ¬ (8 * (i + 1) + k < 8) := by omega
      have h2 : 8 * (i + 1) + k < w := by omega
      have h3 : 8 * (i + 1) + k - 8 = 8 * i + k := by omega
      have h4 : b.getLsbD (8 * (i + 1) + k) = false := BitVec.getLsbD_of_ge _ _ (by omega)
      simp [byteOf, hk, h1, h2, h3, h4]
      rfl

/-- A byte of a beat; one that is not given is 0. -/
theorem byteOf_beatOf (l : List Byte) (i : Nat) (hi : i < 16) : byteOf (beatOf l) i = l.getD i 0 := by
  unfold beatOf
  rw [byteOf_foldr _ _ _ (by omega)]
  simp [List.getD_eq_getElem?_getD, hi]

@[simp] theorem beatsOf_length (n : Nat) (l : List Byte) : (beatsOf n l).length = n := by
  induction n generalizing l with
  | zero => rfl
  | succ n ih => simp [beatsOf, ih]

/-- A byte of a block cut into beats. -/
theorem blockByte_beatsOf (n : Nat) (l : List Byte) (i : Nat) (hi : i < 16 * n) :
    blockByte (beatsOf n l) i = l.getD i 0 := by
  induction n generalizing l i with
  | zero => omega
  | succ n ih =>
    by_cases h : i < 16
    · simp [blockByte, beatsOf, Nat.div_eq_of_lt h, Nat.mod_eq_of_lt h, byteOf_beatOf _ _ h]
    · have hd : i / 16 = (i - 16) / 16 + 1 := by omega
      have hm : i % 16 = (i - 16) % 16 := by omega
      have := ih (l.drop 16) (i - 16) (by omega)
      rw [blockByte] at this
      simp only [blockByte, beatsOf, hd, List.getD_cons_succ, hm, this]
      simp [List.getD_eq_getElem?_getD, List.getElem?_drop, show 16 + (i - 16) = i by omega]

/-- The number that bytes spell, the first the lowest (R179). -/
def leValue : List Byte → Nat
  | [] => 0
  | b :: l => b.toNat + 256 * leValue l

/-- A field of a block cut into beats is the number its bytes spell. -/
theorem field_beatsOf (n : Nat) (l : List Byte) (off k : Nat) (h : off + k ≤ 16 * n) (hl : off + k ≤ l.length) :
    field (beatsOf n l) off k = leValue ((l.drop off).take k) := by
  induction k generalizing off with
  | zero => simp [field, leValue]
  | succ k ih =>
    rw [field, blockByte_beatsOf _ _ _ (by omega), ih (off + 1) (by omega) (by omega)]
    have : l.drop off = l[off] :: l.drop (off + 1) := List.drop_eq_getElem_cons (by omega)
    rw [this, List.take_succ_cons, leValue]
    simp [List.getD_eq_getElem?_getD, List.getElem?_eq_getElem (show off < l.length by omega)]

/-- A number written in `k` bytes reads back. -/
theorem leValue_leBytes (k n : Nat) : leValue (leBytes k n) = n % 256 ^ k := by
  induction k generalizing n with
  | zero => simp [leBytes, leValue, Nat.mod_one]
  | succ k ih =>
    rw [leBytes, leValue, ih, BitVec.toNat_ofNat, Nat.pow_succ' (n := k), Nat.mod_mul]

@[simp] theorem leBytes_length (k n : Nat) : (leBytes k n).length = k := by
  induction k generalizing n with
  | zero => rfl
  | succ k ih => simp [leBytes, ih]

end Sys2Proof.Machine
end

