-- ==== Sys2Proof/Laws/Checks.lean ====
section
/-! SUPPORT. The invariants as finite checks, for concrete states: each lemma turns statements over every index into
tests of the lists themselves. -/

namespace Sys2Proof.Machine

/-- A property of every position of a list, from the list of its elements with their positions. -/
theorem forall_getElem?_of_zipIdx {α : Type} {l : List α} {p : Nat → α → Prop}
    (h : ∀ q ∈ l.zipIdx, p q.2 q.1) (i : Nat) (x : α) (hx : l[i]? = some x) : p i x :=
  h (x, i) (List.mem_zipIdx_iff_getElem?.2 hx)

/-- Beyond the table an entry reads as after a reset. -/
theorem fault_of_le {s : State} {i : Nat} (h : s.faults.length ≤ i) : s.fault i = .reset := by
  simp [State.fault, List.getD, List.getElem?_eq_none h]

theorem faultEntryOk_reset (i : Nat) : FaultEntryOk i .reset := by
  simp [FaultEntryOk, FaultEntry.reset]

/-- The fault table from its 26 entries. -/
theorem faultsOk_of_entries {s : State} (hl : s.faults.length = 26)
    (h : ∀ q ∈ s.faults.zipIdx, FaultEntryOk q.2 q.1) : FaultsOk s := by
  refine ⟨hl, fun i => ?_⟩
  by_cases hi : i < s.faults.length
  · have : s.fault i = s.faults[i] := by simp [State.fault, List.getD, hi]
    rw [this]
    exact forall_getElem?_of_zipIdx h i _ (by simp [hi])
  · rw [fault_of_le (by omega)]
    exact faultEntryOk_reset i

/-- The backlog from its entries and those of the table. -/
theorem backlogOk_of_entries {s : State} (hl : s.faults.length = 26) (hn : s.report.backlog.Nodup)
    (hb : ∀ i ∈ s.report.backlog, (s.fault i).pending.isSome = true)
    (hf : ∀ i < 26, (s.fault i).pending.isSome = true → i ∈ s.report.backlog) : BacklogOk s := by
  refine ⟨hl, hn, fun i => ⟨hb i, fun h => ?_⟩⟩
  by_cases hi : i < 26
  · exact hf i hi h
  · rw [fault_of_le (by omega)] at h
    cases h

/-- The tests of a view record, list by list. -/
def View.checked (x : View) : Bool :=
  (x.slots.zipIdx.all fun q =>
    decide (q.1.state = .filling ↔ x.capture = .slotted q.2) && decide (q.1.state = .shown ↔ x.shown = some q.2) &&
      (!q.1.pinRequest || (decide (q.1.state = .shown) && x.slots.all fun sl => decide (sl.state ≠ .pinned))) &&
      x.slots.zipIdx.all fun q' => decide (q.1.state = .pinned → q'.1.state = .pinned → q.2 = q'.2)) &&
    (match x.capture with
    | .slotted i => decide (i < x.slots.length)
    | _ => true) &&
    (match x.shown with
    | some i => decide (i < x.slots.length)
    | none => true) &&
    decide (x.state = .stopped → x.capture = .none ∧ x.shown = none ∧ x.pendingDev = none ∧ x.pendingFlip = none)

theorem viewOk_of_checked {x : View} (h : x.checked = true) : ViewOk x := by
  simp only [View.checked, Bool.and_eq_true, List.all_eq_true, decide_eq_true_eq] at h
  obtain ⟨⟨⟨hs, hc⟩, hsh⟩, hst⟩ := h
  have at_ (i : Nat) (sl : Slot) (hi : x.slots[i]? = some sl) := hs (sl, i) (List.mem_zipIdx_iff_getElem?.2 hi)
  refine ⟨fun i sl hi => (at_ i sl hi).1.1.1, fun i hi => ?_, fun i sl hi => (at_ i sl hi).1.1.2, fun i hi => ?_,
    fun sl hm hp => ?_, fun i j sl sl' hi hj => ?_, hst⟩
  · simpa [hi] using hc
  · simpa [hi] using hsh
  · obtain ⟨i, hi⟩ := List.mem_iff_getElem?.1 hm
    have := (at_ i sl hi).1.2
    simp only [hp, Bool.not_true, Bool.false_or, Bool.and_eq_true, decide_eq_true_eq, List.all_eq_true] at this
    exact this
  · exact (at_ i sl hi).2 (sl', j) (List.mem_zipIdx_iff_getElem?.2 hj)

/-- The test of a slot. -/
def Slot.checked (rawBytes : Nat) (sl : Slot) : Bool :=
  match sl.state with
  | .free => sl.frame.isNone
  | .filling => sl.frame.isSome
  | _ =>
    match sl.frame with
    | some f => decide (f.fillPoint = rawBytes ∧ f.gap = false ∧ f.writes = 0)
    | none => false

theorem slotOk_of_checked {n : Nat} {sl : Slot} (h : sl.checked n = true) : SlotOk n sl := by
  unfold Slot.checked at h
  unfold SlotOk
  cases hs : sl.state <;> simp only [hs] at h ⊢
  case free => simpa using h
  case filling => exact h
  all_goals
    split at h
    · exact ⟨_, by assumption, by simpa using h⟩
    · cases h

/-- The tests of both views. -/
def State.viewsChecked (s : State) : Bool :=
  [Side.left, Side.right].all fun v =>
    ((s.view v).slots.all fun sl => sl.checked (s.geometry v).rawBytes) && (s.view v).checked &&
      decide (s.attach.state ≠ .attached → (s.view v).state = .stopped ∧ s.attach.inHand = none)

theorem viewsOk_of_checked {s : State} (h : s.viewsChecked = true) : ViewsOk s := by
  have hv (v : Side) :
      (∀ sl ∈ (s.view v).slots, sl.checked (s.geometry v).rawBytes = true) ∧ (s.view v).checked = true ∧
        (s.attach.state ≠ .attached → (s.view v).state = .stopped ∧ s.attach.inHand = none) := by
    have := List.all_eq_true.1 h v (by cases v <;> decide)
    simp only [Bool.and_eq_true, List.all_eq_true, decide_eq_true_eq] at this
    exact ⟨this.1.1, this.1.2, this.2⟩
  refine ⟨fun v sl hm => slotOk_of_checked ((hv v).1 sl hm), fun v => viewOk_of_checked (hv v).2.1,
    fun hs v => ((hv v).2.2 hs).1, fun hi => ?_⟩
  by_contra hs
  rw [((hv .left).2.2 hs).2] at hi
  cases hi

/-- The tests of the fault table. -/
def State.faultsChecked (s : State) : Bool :=
  decide (s.faults.length = 26) &&
    s.faults.zipIdx.all fun q =>
      decide ((isEvent q.2 = true → q.1.state = .clear) ∧ (q.1.state = .recovered → isSafety q.2 = true) ∧
        (q.1.debounce ≠ 0 → q.1.state = .suspect) ∧ (q.1.heal ≠ 0 → q.1.state = .active) ∧ q.1.occurrences ≤ 65535 ∧
        q.1.superseded ≤ 255)

theorem faultsOk_of_checked {s : State} (h : s.faultsChecked = true) : FaultsOk s := by
  simp only [State.faultsChecked, Bool.and_eq_true, List.all_eq_true, decide_eq_true_eq] at h
  exact faultsOk_of_entries h.1 h.2

/-- The test of blanking. -/
def State.blankingChecked (s : State) : Bool :=
  [Side.left, Side.right].all fun v =>
    decide (((s.view v).state = .running → s.safetyActive v = false) ∧
      ((s.view v).state = .blanked → s.safetyActive v = true))

theorem blankingOk_of_checked {s : State} (h : s.blankingChecked = true) : BlankingOk s := fun v => by
  exact of_decide_eq_true (List.all_eq_true.1 h v (by cases v <;> decide))

/-- The test of the store queue. -/
def State.storeChecked (s : State) : Bool :=
  decide (s.faults.length = 26 ∧ (s.history.disabled = true → s.history.queue = []))

theorem storeQueueOk_of_checked {s : State} (h : s.storeChecked = true) : StoreQueueOk s := by
  have := of_decide_eq_true h
  exact this

/-- The test of the tags. -/
def State.tagsChecked (s : State) : Bool :=
  decide (((s.path.writes.map UpWrite.tag).Nodup ∧ ∀ u ∈ s.path.writes, u.tag < s.path.nextTag) ∧
    ((s.path.reads.map UpRead.tag).Nodup ∧ ∀ u ∈ s.path.reads, u.tag < s.path.nextTag))

theorem tagsOk_of_checked {s : State} (h : s.tagsChecked = true) : TagsOk s := by
  have := of_decide_eq_true h
  exact this

end Sys2Proof.Machine
end

