-- ==== Sys2Proof/Laws/State.lean ====
section
/-! SUPPORT. One lemma per field per update of the state, so that no later proof unfolds a record update. -/

namespace Sys2Proof.Machine.State

variable (s : State) (v : Side)

/-! ## The parts of the state after one of them is replaced -/

@[simp] theorem setPending_pending (x : List Instr) : (s.setPending x).pending = x := rfl
@[simp] theorem setPending_timebase (x : List Instr) : (s.setPending x).timebase = s.timebase := rfl
@[simp] theorem setPending_views (x : List Instr) : (s.setPending x).views = s.views := rfl
@[simp] theorem setPending_ladder (x : List Instr) : (s.setPending x).ladder = s.ladder := rfl
@[simp] theorem setPending_pwm (x : List Instr) : (s.setPending x).pwm = s.pwm := rfl
@[simp] theorem setPending_faults (x : List Instr) : (s.setPending x).faults = s.faults := rfl
@[simp] theorem setPending_path (x : List Instr) : (s.setPending x).path = s.path := rfl
@[simp] theorem setPending_attach (x : List Instr) : (s.setPending x).attach = s.attach := rfl
@[simp] theorem setPending_report (x : List Instr) : (s.setPending x).report = s.report := rfl
@[simp] theorem setPending_history (x : List Instr) : (s.setPending x).history = s.history := rfl
@[simp] theorem setPending_freeIndex (x : List Instr) : (s.setPending x).freeIndex = s.freeIndex := rfl
@[simp] theorem setPending_out (x : List Instr) : (s.setPending x).out = s.out := rfl

@[simp] theorem setTimebase_pending (x : Time) : (s.setTimebase x).pending = s.pending := rfl
@[simp] theorem setTimebase_timebase (x : Time) : (s.setTimebase x).timebase = x := rfl
@[simp] theorem setTimebase_views (x : Time) : (s.setTimebase x).views = s.views := rfl
@[simp] theorem setTimebase_ladder (x : Time) : (s.setTimebase x).ladder = s.ladder := rfl
@[simp] theorem setTimebase_pwm (x : Time) : (s.setTimebase x).pwm = s.pwm := rfl
@[simp] theorem setTimebase_faults (x : Time) : (s.setTimebase x).faults = s.faults := rfl
@[simp] theorem setTimebase_path (x : Time) : (s.setTimebase x).path = s.path := rfl
@[simp] theorem setTimebase_attach (x : Time) : (s.setTimebase x).attach = s.attach := rfl
@[simp] theorem setTimebase_report (x : Time) : (s.setTimebase x).report = s.report := rfl
@[simp] theorem setTimebase_history (x : Time) : (s.setTimebase x).history = s.history := rfl
@[simp] theorem setTimebase_freeIndex (x : Time) : (s.setTimebase x).freeIndex = s.freeIndex := rfl
@[simp] theorem setTimebase_out (x : Time) : (s.setTimebase x).out = s.out := rfl

@[simp] theorem setViews_pending (x : Sides View) : (s.setViews x).pending = s.pending := rfl
@[simp] theorem setViews_timebase (x : Sides View) : (s.setViews x).timebase = s.timebase := rfl
@[simp] theorem setViews_views (x : Sides View) : (s.setViews x).views = x := rfl
@[simp] theorem setViews_ladder (x : Sides View) : (s.setViews x).ladder = s.ladder := rfl
@[simp] theorem setViews_pwm (x : Sides View) : (s.setViews x).pwm = s.pwm := rfl
@[simp] theorem setViews_faults (x : Sides View) : (s.setViews x).faults = s.faults := rfl
@[simp] theorem setViews_path (x : Sides View) : (s.setViews x).path = s.path := rfl
@[simp] theorem setViews_attach (x : Sides View) : (s.setViews x).attach = s.attach := rfl
@[simp] theorem setViews_report (x : Sides View) : (s.setViews x).report = s.report := rfl
@[simp] theorem setViews_history (x : Sides View) : (s.setViews x).history = s.history := rfl
@[simp] theorem setViews_freeIndex (x : Sides View) : (s.setViews x).freeIndex = s.freeIndex := rfl
@[simp] theorem setViews_out (x : Sides View) : (s.setViews x).out = s.out := rfl

@[simp] theorem setLadder_pending (x : Ladder) : (s.setLadder x).pending = s.pending := rfl
@[simp] theorem setLadder_timebase (x : Ladder) : (s.setLadder x).timebase = s.timebase := rfl
@[simp] theorem setLadder_views (x : Ladder) : (s.setLadder x).views = s.views := rfl
@[simp] theorem setLadder_ladder (x : Ladder) : (s.setLadder x).ladder = x := rfl
@[simp] theorem setLadder_pwm (x : Ladder) : (s.setLadder x).pwm = s.pwm := rfl
@[simp] theorem setLadder_faults (x : Ladder) : (s.setLadder x).faults = s.faults := rfl
@[simp] theorem setLadder_path (x : Ladder) : (s.setLadder x).path = s.path := rfl
@[simp] theorem setLadder_attach (x : Ladder) : (s.setLadder x).attach = s.attach := rfl
@[simp] theorem setLadder_report (x : Ladder) : (s.setLadder x).report = s.report := rfl
@[simp] theorem setLadder_history (x : Ladder) : (s.setLadder x).history = s.history := rfl
@[simp] theorem setLadder_freeIndex (x : Ladder) : (s.setLadder x).freeIndex = s.freeIndex := rfl
@[simp] theorem setLadder_out (x : Ladder) : (s.setLadder x).out = s.out := rfl

@[simp] theorem setPwm_pending (x : Pwm) : (s.setPwm x).pending = s.pending := rfl
@[simp] theorem setPwm_timebase (x : Pwm) : (s.setPwm x).timebase = s.timebase := rfl
@[simp] theorem setPwm_views (x : Pwm) : (s.setPwm x).views = s.views := rfl
@[simp] theorem setPwm_ladder (x : Pwm) : (s.setPwm x).ladder = s.ladder := rfl
@[simp] theorem setPwm_pwm (x : Pwm) : (s.setPwm x).pwm = x := rfl
@[simp] theorem setPwm_faults (x : Pwm) : (s.setPwm x).faults = s.faults := rfl
@[simp] theorem setPwm_path (x : Pwm) : (s.setPwm x).path = s.path := rfl
@[simp] theorem setPwm_attach (x : Pwm) : (s.setPwm x).attach = s.attach := rfl
@[simp] theorem setPwm_report (x : Pwm) : (s.setPwm x).report = s.report := rfl
@[simp] theorem setPwm_history (x : Pwm) : (s.setPwm x).history = s.history := rfl
@[simp] theorem setPwm_freeIndex (x : Pwm) : (s.setPwm x).freeIndex = s.freeIndex := rfl
@[simp] theorem setPwm_out (x : Pwm) : (s.setPwm x).out = s.out := rfl

@[simp] theorem setFaults_pending (x : List FaultEntry) : (s.setFaults x).pending = s.pending := rfl
@[simp] theorem setFaults_timebase (x : List FaultEntry) : (s.setFaults x).timebase = s.timebase := rfl
@[simp] theorem setFaults_views (x : List FaultEntry) : (s.setFaults x).views = s.views := rfl
@[simp] theorem setFaults_ladder (x : List FaultEntry) : (s.setFaults x).ladder = s.ladder := rfl
@[simp] theorem setFaults_pwm (x : List FaultEntry) : (s.setFaults x).pwm = s.pwm := rfl
@[simp] theorem setFaults_faults (x : List FaultEntry) : (s.setFaults x).faults = x := rfl
@[simp] theorem setFaults_path (x : List FaultEntry) : (s.setFaults x).path = s.path := rfl
@[simp] theorem setFaults_attach (x : List FaultEntry) : (s.setFaults x).attach = s.attach := rfl
@[simp] theorem setFaults_report (x : List FaultEntry) : (s.setFaults x).report = s.report := rfl
@[simp] theorem setFaults_history (x : List FaultEntry) : (s.setFaults x).history = s.history := rfl
@[simp] theorem setFaults_freeIndex (x : List FaultEntry) : (s.setFaults x).freeIndex = s.freeIndex := rfl
@[simp] theorem setFaults_out (x : List FaultEntry) : (s.setFaults x).out = s.out := rfl

@[simp] theorem clearStored_views (l : List Nat) : (s.clearStored l).views = s.views := rfl
@[simp] theorem clearStored_path (l : List Nat) : (s.clearStored l).path = s.path := rfl
@[simp] theorem clearStored_attach (l : List Nat) : (s.clearStored l).attach = s.attach := rfl
@[simp] theorem clearStored_report (l : List Nat) : (s.clearStored l).report = s.report := rfl
@[simp] theorem clearStored_history (l : List Nat) : (s.clearStored l).history = s.history := rfl

@[simp] theorem setPath_pending (x : Path) : (s.setPath x).pending = s.pending := rfl
@[simp] theorem setPath_timebase (x : Path) : (s.setPath x).timebase = s.timebase := rfl
@[simp] theorem setPath_views (x : Path) : (s.setPath x).views = s.views := rfl
@[simp] theorem setPath_ladder (x : Path) : (s.setPath x).ladder = s.ladder := rfl
@[simp] theorem setPath_pwm (x : Path) : (s.setPath x).pwm = s.pwm := rfl
@[simp] theorem setPath_faults (x : Path) : (s.setPath x).faults = s.faults := rfl
@[simp] theorem setPath_path (x : Path) : (s.setPath x).path = x := rfl
@[simp] theorem setPath_attach (x : Path) : (s.setPath x).attach = s.attach := rfl
@[simp] theorem setPath_report (x : Path) : (s.setPath x).report = s.report := rfl
@[simp] theorem setPath_history (x : Path) : (s.setPath x).history = s.history := rfl
@[simp] theorem setPath_freeIndex (x : Path) : (s.setPath x).freeIndex = s.freeIndex := rfl
@[simp] theorem setPath_out (x : Path) : (s.setPath x).out = s.out := rfl

@[simp] theorem setAttach_pending (x : Attachment) : (s.setAttach x).pending = s.pending := rfl
@[simp] theorem setAttach_timebase (x : Attachment) : (s.setAttach x).timebase = s.timebase := rfl
@[simp] theorem setAttach_views (x : Attachment) : (s.setAttach x).views = s.views := rfl
@[simp] theorem setAttach_ladder (x : Attachment) : (s.setAttach x).ladder = s.ladder := rfl
@[simp] theorem setAttach_pwm (x : Attachment) : (s.setAttach x).pwm = s.pwm := rfl
@[simp] theorem setAttach_faults (x : Attachment) : (s.setAttach x).faults = s.faults := rfl
@[simp] theorem setAttach_path (x : Attachment) : (s.setAttach x).path = s.path := rfl
@[simp] theorem setAttach_attach (x : Attachment) : (s.setAttach x).attach = x := rfl
@[simp] theorem setAttach_report (x : Attachment) : (s.setAttach x).report = s.report := rfl
@[simp] theorem setAttach_history (x : Attachment) : (s.setAttach x).history = s.history := rfl
@[simp] theorem setAttach_freeIndex (x : Attachment) : (s.setAttach x).freeIndex = s.freeIndex := rfl
@[simp] theorem setAttach_out (x : Attachment) : (s.setAttach x).out = s.out := rfl

@[simp] theorem setReport_pending (x : Report) : (s.setReport x).pending = s.pending := rfl
@[simp] theorem setReport_timebase (x : Report) : (s.setReport x).timebase = s.timebase := rfl
@[simp] theorem setReport_views (x : Report) : (s.setReport x).views = s.views := rfl
@[simp] theorem setReport_ladder (x : Report) : (s.setReport x).ladder = s.ladder := rfl
@[simp] theorem setReport_pwm (x : Report) : (s.setReport x).pwm = s.pwm := rfl
@[simp] theorem setReport_faults (x : Report) : (s.setReport x).faults = s.faults := rfl
@[simp] theorem setReport_path (x : Report) : (s.setReport x).path = s.path := rfl
@[simp] theorem setReport_attach (x : Report) : (s.setReport x).attach = s.attach := rfl
@[simp] theorem setReport_report (x : Report) : (s.setReport x).report = x := rfl
@[simp] theorem setReport_history (x : Report) : (s.setReport x).history = s.history := rfl
@[simp] theorem setReport_freeIndex (x : Report) : (s.setReport x).freeIndex = s.freeIndex := rfl
@[simp] theorem setReport_out (x : Report) : (s.setReport x).out = s.out := rfl

@[simp] theorem setHistory_pending (x : History) : (s.setHistory x).pending = s.pending := rfl
@[simp] theorem setHistory_timebase (x : History) : (s.setHistory x).timebase = s.timebase := rfl
@[simp] theorem setHistory_views (x : History) : (s.setHistory x).views = s.views := rfl
@[simp] theorem setHistory_ladder (x : History) : (s.setHistory x).ladder = s.ladder := rfl
@[simp] theorem setHistory_pwm (x : History) : (s.setHistory x).pwm = s.pwm := rfl
@[simp] theorem setHistory_faults (x : History) : (s.setHistory x).faults = s.faults := rfl
@[simp] theorem setHistory_path (x : History) : (s.setHistory x).path = s.path := rfl
@[simp] theorem setHistory_attach (x : History) : (s.setHistory x).attach = s.attach := rfl
@[simp] theorem setHistory_report (x : History) : (s.setHistory x).report = s.report := rfl
@[simp] theorem setHistory_history (x : History) : (s.setHistory x).history = x := rfl
@[simp] theorem setHistory_freeIndex (x : History) : (s.setHistory x).freeIndex = s.freeIndex := rfl
@[simp] theorem setHistory_out (x : History) : (s.setHistory x).out = s.out := rfl

@[simp] theorem setFreeIndex_pending (x : Nat) : (s.setFreeIndex x).pending = s.pending := rfl
@[simp] theorem setFreeIndex_timebase (x : Nat) : (s.setFreeIndex x).timebase = s.timebase := rfl
@[simp] theorem setFreeIndex_views (x : Nat) : (s.setFreeIndex x).views = s.views := rfl
@[simp] theorem setFreeIndex_ladder (x : Nat) : (s.setFreeIndex x).ladder = s.ladder := rfl
@[simp] theorem setFreeIndex_pwm (x : Nat) : (s.setFreeIndex x).pwm = s.pwm := rfl
@[simp] theorem setFreeIndex_faults (x : Nat) : (s.setFreeIndex x).faults = s.faults := rfl
@[simp] theorem setFreeIndex_path (x : Nat) : (s.setFreeIndex x).path = s.path := rfl
@[simp] theorem setFreeIndex_attach (x : Nat) : (s.setFreeIndex x).attach = s.attach := rfl
@[simp] theorem setFreeIndex_report (x : Nat) : (s.setFreeIndex x).report = s.report := rfl
@[simp] theorem setFreeIndex_history (x : Nat) : (s.setFreeIndex x).history = s.history := rfl
@[simp] theorem setFreeIndex_freeIndex (x : Nat) : (s.setFreeIndex x).freeIndex = x := rfl
@[simp] theorem setFreeIndex_out (x : Nat) : (s.setFreeIndex x).out = s.out := rfl

@[simp] theorem setOut_pending (x : List PortEvent) : (s.setOut x).pending = s.pending := rfl
@[simp] theorem setOut_timebase (x : List PortEvent) : (s.setOut x).timebase = s.timebase := rfl
@[simp] theorem setOut_views (x : List PortEvent) : (s.setOut x).views = s.views := rfl
@[simp] theorem setOut_ladder (x : List PortEvent) : (s.setOut x).ladder = s.ladder := rfl
@[simp] theorem setOut_pwm (x : List PortEvent) : (s.setOut x).pwm = s.pwm := rfl
@[simp] theorem setOut_faults (x : List PortEvent) : (s.setOut x).faults = s.faults := rfl
@[simp] theorem setOut_path (x : List PortEvent) : (s.setOut x).path = s.path := rfl
@[simp] theorem setOut_attach (x : List PortEvent) : (s.setOut x).attach = s.attach := rfl
@[simp] theorem setOut_report (x : List PortEvent) : (s.setOut x).report = s.report := rfl
@[simp] theorem setOut_history (x : List PortEvent) : (s.setOut x).history = s.history := rfl
@[simp] theorem setOut_freeIndex (x : List PortEvent) : (s.setOut x).freeIndex = s.freeIndex := rfl
@[simp] theorem setOut_out (x : List PortEvent) : (s.setOut x).out = x := rfl

/-! ## A view replaced -/

@[simp] theorem setView_pending (x : View) : (s.setView v x).pending = s.pending := rfl
@[simp] theorem setView_timebase (x : View) : (s.setView v x).timebase = s.timebase := rfl
@[simp] theorem setView_ladder (x : View) : (s.setView v x).ladder = s.ladder := rfl
@[simp] theorem setView_pwm (x : View) : (s.setView v x).pwm = s.pwm := rfl
@[simp] theorem setView_faults (x : View) : (s.setView v x).faults = s.faults := rfl
@[simp] theorem setView_path (x : View) : (s.setView v x).path = s.path := rfl
@[simp] theorem setView_attach (x : View) : (s.setView v x).attach = s.attach := rfl
@[simp] theorem setView_report (x : View) : (s.setView v x).report = s.report := rfl
@[simp] theorem setView_history (x : View) : (s.setView v x).history = s.history := rfl
@[simp] theorem setView_freeIndex (x : View) : (s.setView v x).freeIndex = s.freeIndex := rfl
@[simp] theorem setView_out (x : View) : (s.setView v x).out = s.out := rfl
@[simp] theorem setView_views (x : View) : (s.setView v x).views = s.views.set v x := rfl

@[simp] theorem view_setPending (x : List Instr) : (s.setPending x).view v = s.view v := rfl
@[simp] theorem view_setTimebase (x : Time) : (s.setTimebase x).view v = s.view v := rfl
@[simp] theorem view_setLadder (x : Ladder) : (s.setLadder x).view v = s.view v := rfl
@[simp] theorem view_setPwm (x : Pwm) : (s.setPwm x).view v = s.view v := rfl
@[simp] theorem view_setFaults (x : List FaultEntry) : (s.setFaults x).view v = s.view v := rfl
@[simp] theorem view_setPath (x : Path) : (s.setPath x).view v = s.view v := rfl
@[simp] theorem view_setAttach (x : Attachment) : (s.setAttach x).view v = s.view v := rfl
@[simp] theorem view_setReport (x : Report) : (s.setReport x).view v = s.view v := rfl
@[simp] theorem view_setHistory (x : History) : (s.setHistory x).view v = s.view v := rfl
@[simp] theorem view_setFreeIndex (x : Nat) : (s.setFreeIndex x).view v = s.view v := rfl
@[simp] theorem view_setOut (x : List PortEvent) : (s.setOut x).view v = s.view v := rfl

/-! ## The port record, free values, fault entries and the write due -/

@[simp] theorem quiet_pending : s.quiet.pending = s.pending := rfl
@[simp] theorem quiet_timebase : s.quiet.timebase = s.timebase := rfl
@[simp] theorem quiet_views : s.quiet.views = s.views := rfl
@[simp] theorem quiet_ladder : s.quiet.ladder = s.ladder := rfl
@[simp] theorem quiet_pwm : s.quiet.pwm = s.pwm := rfl
@[simp] theorem quiet_faults : s.quiet.faults = s.faults := rfl
@[simp] theorem quiet_path : s.quiet.path = s.path := rfl
@[simp] theorem quiet_attach : s.quiet.attach = s.attach := rfl
@[simp] theorem quiet_report : s.quiet.report = s.report := rfl
@[simp] theorem quiet_history : s.quiet.history = s.history := rfl
@[simp] theorem quiet_freeIndex : s.quiet.freeIndex = s.freeIndex := rfl
@[simp] theorem quiet_out : s.quiet.out = [] := rfl
@[simp] theorem view_quiet : s.quiet.view v = s.view v := rfl

@[simp] theorem emit_pending (e : List PortEvent) : (s.emit e).pending = s.pending := rfl
@[simp] theorem emit_timebase (e : List PortEvent) : (s.emit e).timebase = s.timebase := rfl
@[simp] theorem emit_views (e : List PortEvent) : (s.emit e).views = s.views := rfl
@[simp] theorem emit_ladder (e : List PortEvent) : (s.emit e).ladder = s.ladder := rfl
@[simp] theorem emit_pwm (e : List PortEvent) : (s.emit e).pwm = s.pwm := rfl
@[simp] theorem emit_faults (e : List PortEvent) : (s.emit e).faults = s.faults := rfl
@[simp] theorem emit_path (e : List PortEvent) : (s.emit e).path = s.path := rfl
@[simp] theorem emit_attach (e : List PortEvent) : (s.emit e).attach = s.attach := rfl
@[simp] theorem emit_report (e : List PortEvent) : (s.emit e).report = s.report := rfl
@[simp] theorem emit_history (e : List PortEvent) : (s.emit e).history = s.history := rfl
@[simp] theorem emit_freeIndex (e : List PortEvent) : (s.emit e).freeIndex = s.freeIndex := rfl
@[simp] theorem emit_out (e : List PortEvent) : (s.emit e).out = s.out ++ e := rfl
@[simp] theorem view_emit (e : List PortEvent) : (s.emit e).view v = s.view v := rfl

@[simp] theorem useFree_pending (n : Nat) : (s.useFree n).pending = s.pending := rfl
@[simp] theorem useFree_timebase (n : Nat) : (s.useFree n).timebase = s.timebase := rfl
@[simp] theorem useFree_views (n : Nat) : (s.useFree n).views = s.views := rfl
@[simp] theorem useFree_ladder (n : Nat) : (s.useFree n).ladder = s.ladder := rfl
@[simp] theorem useFree_pwm (n : Nat) : (s.useFree n).pwm = s.pwm := rfl
@[simp] theorem useFree_faults (n : Nat) : (s.useFree n).faults = s.faults := rfl
@[simp] theorem useFree_path (n : Nat) : (s.useFree n).path = s.path := rfl
@[simp] theorem useFree_attach (n : Nat) : (s.useFree n).attach = s.attach := rfl
@[simp] theorem useFree_report (n : Nat) : (s.useFree n).report = s.report := rfl
@[simp] theorem useFree_history (n : Nat) : (s.useFree n).history = s.history := rfl
@[simp] theorem useFree_freeIndex (n : Nat) : (s.useFree n).freeIndex = s.freeIndex + n := rfl
@[simp] theorem useFree_out (n : Nat) : (s.useFree n).out = s.out := rfl
@[simp] theorem view_useFree (n : Nat) : (s.useFree n).view v = s.view v := rfl

@[simp] theorem setFault_pending (i : Nat) (e : FaultEntry) : (s.setFault i e).pending = s.pending := rfl
@[simp] theorem setFault_timebase (i : Nat) (e : FaultEntry) : (s.setFault i e).timebase = s.timebase := rfl
@[simp] theorem setFault_views (i : Nat) (e : FaultEntry) : (s.setFault i e).views = s.views := rfl
@[simp] theorem setFault_ladder (i : Nat) (e : FaultEntry) : (s.setFault i e).ladder = s.ladder := rfl
@[simp] theorem setFault_pwm (i : Nat) (e : FaultEntry) : (s.setFault i e).pwm = s.pwm := rfl
@[simp] theorem setFault_faults (i : Nat) (e : FaultEntry) : (s.setFault i e).faults = s.faults.set i e := rfl
@[simp] theorem setFault_path (i : Nat) (e : FaultEntry) : (s.setFault i e).path = s.path := rfl
@[simp] theorem setFault_attach (i : Nat) (e : FaultEntry) : (s.setFault i e).attach = s.attach := rfl
@[simp] theorem setFault_report (i : Nat) (e : FaultEntry) : (s.setFault i e).report = s.report := rfl
@[simp] theorem setFault_history (i : Nat) (e : FaultEntry) : (s.setFault i e).history = s.history := rfl
@[simp] theorem setFault_freeIndex (i : Nat) (e : FaultEntry) : (s.setFault i e).freeIndex = s.freeIndex := rfl
@[simp] theorem setFault_out (i : Nat) (e : FaultEntry) : (s.setFault i e).out = s.out := rfl
@[simp] theorem view_setFault (i : Nat) (e : FaultEntry) : (s.setFault i e).view v = s.view v := rfl

@[simp] theorem statusDue_pending : s.statusDue.pending = s.pending := rfl
@[simp] theorem statusDue_timebase : s.statusDue.timebase = s.timebase := rfl
@[simp] theorem statusDue_views : s.statusDue.views = s.views := rfl
@[simp] theorem statusDue_ladder : s.statusDue.ladder = s.ladder := rfl
@[simp] theorem statusDue_pwm : s.statusDue.pwm = s.pwm := rfl
@[simp] theorem statusDue_faults : s.statusDue.faults = s.faults := rfl
@[simp] theorem statusDue_path : s.statusDue.path = s.path := rfl
@[simp] theorem statusDue_attach : s.statusDue.attach = s.attach := rfl
@[simp] theorem statusDue_report : s.statusDue.report = { s.report with status := { s.report.status with due := true, changed := true } } := rfl
@[simp] theorem statusDue_history : s.statusDue.history = s.history := rfl
@[simp] theorem statusDue_freeIndex : s.statusDue.freeIndex = s.freeIndex := rfl
@[simp] theorem statusDue_out : s.statusDue.out = s.out := rfl
@[simp] theorem view_statusDue : s.statusDue.view v = s.view v := rfl

/-! ## Reading a view -/

@[simp] theorem view_setView (x : View) : (s.setView v x).view v = x := by cases v <;> rfl

theorem view_setView_of_ne {u : Side} (h : u ≠ v) (x : View) : (s.setView v x).view u = s.view u := by
  cases u <;> cases v <;> first | rfl | exact absurd rfl h

@[simp] theorem view_setView_other (x : View) : (s.setView v x).view (other v) = s.view (other v) := by
  cases v <;> rfl

theorem views_eq_iff {s t : State} : t.views = s.views ↔ ∀ v, t.view v = s.view v := by
  constructor
  · intro h v; cases v <;> simp [State.view, h]
  · intro h
    have hl := h .left
    have hr := h .right
    simp only [State.view, Sides.get] at hl hr
    cases ht : t.views; cases hs : s.views
    simp_all

/-- Two states with the same parts are the same. -/
theorem ext_parts {s t : State} (h0 : t.pending = s.pending) (h1 : t.timebase = s.timebase) (h2 : t.views = s.views)
    (h3 : t.ladder = s.ladder) (h4 : t.pwm = s.pwm) (h5 : t.faults = s.faults) (h6 : t.path = s.path)
    (h7 : t.attach = s.attach) (h8 : t.report = s.report) (h9 : t.history = s.history)
    (h10 : t.freeIndex = s.freeIndex) (h11 : t.out = s.out) : t = s := by
  cases s; cases t; simp_all

/-! ## Fault entries -/

@[simp] theorem fault_setFault_self {i : Nat} (h : i < s.faults.length) (e : FaultEntry) :
    (s.setFault i e).fault i = e := by
  simp [State.fault, List.getD, h]

theorem fault_setFault_of_ne {i j : Nat} (h : i ≠ j) (e : FaultEntry) : (s.setFault i e).fault j = s.fault j := by
  simp [State.fault, List.getD, h]

@[simp] theorem fault_setView (i : Nat) (x : View) : (s.setView v x).fault i = s.fault i := rfl

@[simp] theorem fault_setPending (i : Nat) (x : List Instr) : (s.setPending x).fault i = s.fault i := rfl
@[simp] theorem fault_setTimebase (i : Nat) (x : Time) : (s.setTimebase x).fault i = s.fault i := rfl
@[simp] theorem fault_setLadder (i : Nat) (x : Ladder) : (s.setLadder x).fault i = s.fault i := rfl
@[simp] theorem fault_setPwm (i : Nat) (x : Pwm) : (s.setPwm x).fault i = s.fault i := rfl
@[simp] theorem fault_setPath (i : Nat) (x : Path) : (s.setPath x).fault i = s.fault i := rfl
@[simp] theorem fault_setAttach (i : Nat) (x : Attachment) : (s.setAttach x).fault i = s.fault i := rfl
@[simp] theorem fault_setReport (i : Nat) (x : Report) : (s.setReport x).fault i = s.fault i := rfl
@[simp] theorem fault_setHistory (i : Nat) (x : History) : (s.setHistory x).fault i = s.fault i := rfl
@[simp] theorem fault_setFreeIndex (i : Nat) (x : Nat) : (s.setFreeIndex x).fault i = s.fault i := rfl
@[simp] theorem fault_setOut (i : Nat) (x : List PortEvent) : (s.setOut x).fault i = s.fault i := rfl

/-! ## Settings -/

@[simp] theorem viewSettings_setView (u : Side) (x : View) : (s.setView v x).viewSettings u = s.viewSettings u := rfl
@[simp] theorem viewSettings_setPending (x : List Instr) : (s.setPending x).viewSettings v = s.viewSettings v := rfl
@[simp] theorem viewSettings_setTimebase (x : Time) : (s.setTimebase x).viewSettings v = s.viewSettings v := rfl
@[simp] theorem viewSettings_setViews (x : Sides View) : (s.setViews x).viewSettings v = s.viewSettings v := rfl
@[simp] theorem viewSettings_setLadder (x : Ladder) : (s.setLadder x).viewSettings v = s.viewSettings v := rfl
@[simp] theorem viewSettings_setPwm (x : Pwm) : (s.setPwm x).viewSettings v = s.viewSettings v := rfl
@[simp] theorem viewSettings_setFaults (x : List FaultEntry) : (s.setFaults x).viewSettings v = s.viewSettings v := rfl
@[simp] theorem viewSettings_setPath (x : Path) : (s.setPath x).viewSettings v = s.viewSettings v := rfl
@[simp] theorem viewSettings_setReport (x : Report) : (s.setReport x).viewSettings v = s.viewSettings v := rfl
@[simp] theorem viewSettings_setHistory (x : History) : (s.setHistory x).viewSettings v = s.viewSettings v := rfl
@[simp] theorem viewSettings_setFreeIndex (x : Nat) : (s.setFreeIndex x).viewSettings v = s.viewSettings v := rfl
@[simp] theorem viewSettings_setOut (x : List PortEvent) : (s.setOut x).viewSettings v = s.viewSettings v := rfl

end Sys2Proof.Machine.State
end

