-- ==== Sys2Proof/Laws/Frames.lean ====
section
/-! SUPPORT. How frames compose, the frame of every update of a part, and the frames of the shared operations: each says
once which parts of the state the operation can change. -/

namespace Sys2Proof.Machine

/-! ## Composition -/

theorem Part.same_refl (s : State) (p : Part) : Part.same s s p := by cases p <;> simp [Part.same]

theorem Part.same_trans {s t u : State} {p : Part} (h : Part.same s t p) (k : Part.same t u p) : Part.same s u p := by
  cases p <;> simp_all [Part.same]

namespace OnlyChanges

theorem refl (l : List Part) (s : State) : OnlyChanges l s s := fun p _ => Part.same_refl s p

theorem trans {l : List Part} {s t u : State} (h : OnlyChanges l s t) (k : OnlyChanges l t u) : OnlyChanges l s u :=
  fun p hp => Part.same_trans (h p hp) (k p hp)

theorem mono {l m : List Part} {s t : State} (hm : ∀ p ∈ l, p ∈ m) (h : OnlyChanges l s t) : OnlyChanges m s t :=
  fun p hp => h p fun hl => hp (hm p hl)

theorem ite {l : List Part} {s t u : State} {c : Prop} [Decidable c] (h : OnlyChanges l s t) (k : OnlyChanges l s u) :
    OnlyChanges l s (if c then t else u) := by
  split <;> assumption

/-- Two frames in a row. -/
theorem append {l m : List Part} {s t u : State} (h : OnlyChanges l s t) (k : OnlyChanges m t u) :
    OnlyChanges (l ++ m) s u :=
  (h.mono fun _ hp => List.mem_append_left m hp).trans (k.mono fun _ hp => List.mem_append_right l hp)

end OnlyChanges

/-! ## The frame of each update -/

section Updates

variable (s : State)

theorem setTimebase_frame (x : Time) : OnlyChanges [.timebase] s (s.setTimebase x) := by
  intro p hp; cases p <;> simp_all [Part.same, State.setTimebase]

theorem setView_frame (v : Side) (x : View) : OnlyChanges [viewPart v] s (s.setView v x) := by
  intro p hp; cases v <;> cases p <;> simp_all [Part.same, State.setView, Sides.set, viewPart]

theorem setViews_frame (x : Sides View) : OnlyChanges [.viewLeft, .viewRight] s (s.setViews x) := by
  intro p hp; cases p <;> simp_all [Part.same, State.setViews]

theorem setLadder_frame (x : Ladder) : OnlyChanges [.ladder] s (s.setLadder x) := by
  intro p hp; cases p <;> simp_all [Part.same, State.setLadder]

theorem setPwm_frame (x : Pwm) : OnlyChanges [.pwm] s (s.setPwm x) := by
  intro p hp; cases p <;> simp_all [Part.same, State.setPwm]

theorem setFaults_frame (x : List FaultEntry) : OnlyChanges [.faults] s (s.setFaults x) := by
  intro p hp; cases p <;> simp_all [Part.same, State.setFaults]

theorem setFault_frame (i : Nat) (x : FaultEntry) : OnlyChanges [.faults] s (s.setFault i x) := setFaults_frame s _

theorem setPath_frame (x : Path) : OnlyChanges [.path] s (s.setPath x) := by
  intro p hp; cases p <;> simp_all [Part.same, State.setPath]

theorem setAttach_frame (x : Attachment) : OnlyChanges [.attach] s (s.setAttach x) := by
  intro p hp; cases p <;> simp_all [Part.same, State.setAttach]

theorem setReport_frame (x : Report) : OnlyChanges [.report, .statusWriter] s (s.setReport x) := by
  intro p hp; cases p <;> simp_all [Part.same, State.setReport]

theorem setHistory_frame (x : History) : OnlyChanges [.history] s (s.setHistory x) := by
  intro p hp; cases p <;> simp_all [Part.same, State.setHistory]

theorem useFree_frame (n : Nat) : OnlyChanges [.freeValues] s (s.useFree n) := by
  intro p hp; cases p <;> simp_all [Part.same, State.useFree, State.setFreeIndex]

theorem emit_frame (e : List PortEvent) : OnlyChanges [] s (s.emit e) := by
  intro p hp; cases p <;> simp_all [Part.same]

theorem quiet_frame : OnlyChanges [] s s.quiet := by
  intro p hp; cases p <;> simp_all [Part.same]

/-- The marks that make a status write due are outside every part. -/
theorem statusDue_frame : OnlyChanges [] s s.statusDue := by
  intro p hp; cases p <;> simp_all [Part.same]

end Updates

/-! ## How a command ends -/

/-- A command that ends in `t` keeps the frame of `t`. -/
theorem finish_frame {l : List Part} {s t : State} (h : OnlyChanges l s t) :
    ∃ u, finish s t = .next u ∧ OnlyChanges l s u := by
  refine ⟨_, rfl, ?_⟩
  split
  · exact h
  · exact h.trans ((statusDue_frame t).mono (by simp))

/-- The status fields do not look at the marks that make a write due. -/
@[simp] theorem status_statusDue (s : State) : s.statusDue.status = s.status := rfl

@[simp] theorem status_quiet (s : State) : s.quiet.status = s.status := rfl

/-- What `finish` answers, and that it marks a status write due exactly at a change of a status field (R141). -/
theorem finish_spec (s t : State) :
    (t.status = s.status ∧ finish s t = .next t) ∨ (t.status ≠ s.status ∧ finish s t = .next t.statusDue) := by
  by_cases h : s.status = t.status
  · exact .inl ⟨h.symm, by simp [finish, h]⟩
  · exact .inr ⟨fun k => h k.symm, by simp [finish, h]⟩

theorem guarded_of_wellFormed {i : Instr} (h : i.wellFormed = true) (r : Result) : guarded i r = r := by
  simp [guarded, h]

theorem guarded_of_illFormed {i : Instr} (h : i.wellFormed = false) (r : Result) : guarded i r = .fault .illFormed := by
  simp [guarded, h]

/-- A command row whose command is in hand is carried out (R174). -/
theorem carryOut_of_inHand {i : Instr} {s : State} {h : Handover} (hh : s.attach.inHand = some h)
    (hc : h.record.command = i) (f : Handover → State → State) :
    carryOut i s f = finish s (f h ((s.quiet).setAttach { s.attach with inHand := none })) := by
  simp [carryOut, hh, hc]

/-! ## Fault evidence (R118 to R126) -/

section Evidence

variable (s : State)

theorem reblank_frame (v : Side) : OnlyChanges [viewPart v] s (s.reblank v) := by
  unfold State.reblank
  dsimp only
  split <;> (try split) <;> first | exact setView_frame s v _ | exact OnlyChanges.refl _ _

theorem reportTransition_frame (i : Nat) (tr : Transition) :
    OnlyChanges [.faults, .report, .statusWriter] s (s.reportTransition i tr) :=
  ((setFault_frame s i _).append (setReport_frame _ _)).mono (by simp)

theorem placeInQueue_frame (i : Nat) : OnlyChanges [.faults, .history] s (s.placeInQueue i) := by
  unfold State.placeInQueue
  dsimp only
  split
  · exact (setFault_frame s i _).mono (by simp)
  · exact ((setFault_frame s i _).append (setHistory_frame _ _)).mono (by simp)

/-- The parts that evidence for an entry can change: the entry and its hand-offs, and the view of a SAFETY entry. -/
def evidenceParts (i : Nat) : List Part :=
  [.faults, .report, .statusWriter, .history] ++
    match entrySide i with
    | some v => if isSafety i then [viewPart v] else []
    | none => []

theorem handOff_frame (i : Nat) (tr : Transition) : OnlyChanges (evidenceParts i) s (s.handOff i tr) := by
  have h1 : OnlyChanges (evidenceParts i) s (s.reportTransition i tr) :=
    (reportTransition_frame s i tr).mono (by simp [evidenceParts])
  have h2 : OnlyChanges (evidenceParts i) s
      (if isStored i && (tr = .toActive || tr = .occurred) then (s.reportTransition i tr).placeInQueue i
        else s.reportTransition i tr) := by
    split
    · exact h1.trans ((placeInQueue_frame _ i).mono (by simp [evidenceParts]))
    · exact h1
  unfold State.handOff
  dsimp only
  split
  · rename_i v hv
    split
    · rename_i hs
      exact h2.trans ((reblank_frame _ v).mono (by simp [evidenceParts, hv, hs]))
    · exact h2
  · exact h2

theorem evidenceOnce_frame (i : Nat) (ev : Evidence) : OnlyChanges (evidenceParts i) s (s.evidenceOnce i ev) := by
  have hf (e : FaultEntry) : OnlyChanges (evidenceParts i) s (s.setFault i e) :=
    (setFault_frame s i e).mono (by simp [evidenceParts])
  refine OnlyChanges.ite (OnlyChanges.refl _ _) ?_
  split
  · exact hf _
  · exact (hf _).trans (handOff_frame _ i _)

theorem clearStored_frame (l : List Nat) : OnlyChanges [.faults] s (s.clearStored l) := setFaults_frame s _

theorem discardWhileDisabled_frame (n : Nat) :
    OnlyChanges [.faults, .report, .statusWriter, .history] s (s.discardWhileDisabled n) := by
  induction n generalizing s with
  | zero => exact OnlyChanges.refl _ _
  | succ n ih =>
    unfold State.discardWhileDisabled
    split
    · split
      · exact OnlyChanges.refl _ _
      · rename_i i rest _
        have h := evidenceOnce_frame ((s.setHistory { s.history with queue := rest }).clearStored [i]) storeFaultEntry
          (.fail (State.storeDetail 3 0xFF 0) none s.timebase)
        exact ((((setHistory_frame s _).append (clearStored_frame _ [i])).mono (by simp)).trans
          (h.mono (by simp [evidenceParts, entrySide, storeFaultEntry]))).trans (ih _)
    · exact OnlyChanges.refl _ _

/-- Evidence changes the fault table, the report writer, the store queue and, for a SAFETY entry, its view. -/
theorem evidence_frame (i : Nat) (ev : Evidence) : OnlyChanges (evidenceParts i) s (s.evidence i ev) :=
  (evidenceOnce_frame s i ev).trans ((discardWhileDisabled_frame _ 2).mono (by simp [evidenceParts]))

/-- Evidence for an entry that is no SAFETY entry changes no view. -/
theorem evidence_frame_of_not_safety {i : Nat} (h : isSafety i = false) (ev : Evidence) :
    OnlyChanges [.faults, .report, .statusWriter, .history] s (s.evidence i ev) :=
  (evidence_frame s i ev).mono (by
    unfold evidenceParts
    cases entrySide i <;> simp [h])

theorem memoryError_frame (source view : Byte) (addr : Addr) :
    OnlyChanges [.faults, .report, .statusWriter, .history] s (s.memoryError source view addr) :=
  evidence_frame_of_not_safety s rfl _

theorem ownError_frame (src : OwnSource) (addr : Addr) :
    OnlyChanges [.faults, .report, .statusWriter, .history] s (s.ownError src addr) := memoryError_frame s _ _ _

theorem storeFail_frame (operation sector position : Nat) :
    OnlyChanges [.faults, .report, .statusWriter, .history] s (s.storeFail operation sector position) :=
  evidence_frame_of_not_safety s rfl _

theorem storePass_frame : OnlyChanges [.faults, .report, .statusWriter, .history] s s.storePass := by
  unfold State.storePass
  split
  · exact OnlyChanges.refl _ _
  · exact evidence_frame_of_not_safety s rfl _

/-- Evidence of a view's kind changes the fault table, the report writer, the store queue and at most that view. -/
theorem evidence_view_frame (k : ViewKind) (v : Side) (ev : Evidence) :
    OnlyChanges [.faults, .report, .statusWriter, .history, viewPart v] s (s.evidence (entryIndex k v) ev) :=
  (evidence_frame s _ ev).mono (by
    have hside : entrySide (entryIndex k v) = some v := by cases k <;> cases v <;> rfl
    unfold evidenceParts
    rw [hside]
    cases isSafety (entryIndex k v) <;> simp +contextual)

theorem failView_frame (k : ViewKind) (v : Side) (d : BitVec 56) (n : Option (BitVec 32)) (t : Time) :
    OnlyChanges [.faults, .report, .statusWriter, .history, viewPart v] s (s.failView k v d n t) :=
  evidence_view_frame s k v _

theorem passView_frame (k : ViewKind) (v : Side) :
    OnlyChanges [.faults, .report, .statusWriter, .history, viewPart v] s (s.passView k v) := evidence_view_frame s k v _

end Evidence

/-! ## The path unit -/

section PathFrames

variable (s : State)

theorem releaseWrite_frame (id : BusId) : OnlyChanges [.path] s (s.releaseWrite id) := by
  unfold State.releaseWrite
  split
  · split
    · exact (setPath_frame s _).trans ((emit_frame _ _).mono (by simp))
    · exact OnlyChanges.refl _ _
  · exact OnlyChanges.refl _ _

theorem answerWrite_frame (tag : Nat) (r : Resp) : OnlyChanges [.path] s (s.answerWrite tag r) := by
  unfold State.answerWrite
  split
  · exact OnlyChanges.refl _ _
  · dsimp only
    split
    · split
      · exact (setPath_frame s _).trans (releaseWrite_frame _ _)
      · exact setPath_frame s _
    · exact setPath_frame s _

theorem releaseRead_frame (id : BusId) : OnlyChanges [.path] s (s.releaseRead id) := by
  unfold State.releaseRead
  split
  · split
    · exact OnlyChanges.refl _ _
    · exact (setPath_frame s _).trans ((emit_frame _ _).mono (by simp))
  · exact OnlyChanges.refl _ _

theorem answerRead_frame (tag : Nat) (beats : List RBeat) : OnlyChanges [.path] s (s.answerRead tag beats) := by
  unfold State.answerRead
  split
  · exact OnlyChanges.refl _ _
  · exact OnlyChanges.ite ((setPath_frame s _).trans (releaseRead_frame _ _)) (setPath_frame s _)

theorem drain_frame : OnlyChanges [.path] s s.drain :=
  (setPath_frame s _).trans ((emit_frame _ _).mono (by simp))

theorem pushData_frame (tag : Nat) (b : BeatOut) : OnlyChanges [.path] s (s.pushData tag b) :=
  (setPath_frame s _).trans (drain_frame _)

theorem endWrite_frame (id : BusId) : OnlyChanges [.path] s (s.endWrite id) := setPath_frame s _

theorem endRead_frame (id : BusId) : OnlyChanges [.path] s (s.endRead id) := setPath_frame s _

theorem requestOwn_frame (r : OwnRequest) : OnlyChanges [.path] s (s.requestOwn r) := setPath_frame s _

end PathFrames

/-! ## The attachment and command unit -/

section UnitFrames

variable (s : State)

theorem pumpUnit_frame : OnlyChanges [.attach, .path] s s.pumpUnit := by
  unfold State.pumpUnit
  split
  · exact ((setAttach_frame s _).append (requestOwn_frame _ _)).mono (by simp)
  · exact OnlyChanges.refl _ _

theorem want_frame (item : UnitItem) : OnlyChanges [.attach, .path] s (s.want item) := by
  unfold State.want
  split
  · exact OnlyChanges.refl _ _
  · exact ((setAttach_frame s _).mono (by simp)).trans (pumpUnit_frame _)

theorem reply_frame (issue : BitVec 32) (code : ResultCode) : OnlyChanges [.attach, .path] s (s.reply issue code) :=
  ((setAttach_frame s _).mono (by simp)).trans (want_frame _ _)

theorem endCommand_frame (issue : BitVec 32) (code : ResultCode) (detail : BitVec 64) :
    OnlyChanges [.attach, .path] s (s.endCommand issue code detail) :=
  ((setAttach_frame s _).mono (by simp)).trans (want_frame _ _)

theorem endLong_frame (op : LongOperation) (code : ResultCode) : OnlyChanges [.attach, .path] s (s.endLong op code) := by
  unfold State.endLong
  split
  · split
    · exact endCommand_frame s _ _ _
    · exact OnlyChanges.refl _ _
  · exact OnlyChanges.refl _ _

theorem endUnit_frame : OnlyChanges [.attach, .path] s s.endUnit :=
  ((setAttach_frame s _).mono (by simp)).trans (pumpUnit_frame _)

theorem endOwnWrite_frame (src : OwnSource) (d : DownWrite) (r : Resp) :
    OnlyChanges [.path, .faults, .report, .statusWriter, .history] s (s.endOwnWrite src d r) := by
  unfold State.endOwnWrite
  dsimp only
  split
  · exact ((endWrite_frame s _).append (ownError_frame _ _ _)).mono (by simp)
  · exact (endWrite_frame s _).mono (by simp)

end UnitFrames

/-! ## Settings taken by a view -/

section ViewFrames

variable (s : State) (v : Side)

theorem setViewSettings_frame (x : ViewSettings) : OnlyChanges [.attach] s (s.setViewSettings v x) := by
  unfold State.setViewSettings
  split
  · exact setAttach_frame s _
  · exact OnlyChanges.refl _ _

theorem takeDev_frame : OnlyChanges [.attach, viewPart v] s (s.takeDev v) := by
  unfold State.takeDev
  dsimp only
  split
  · exact ((setViewSettings_frame s v _).append (setView_frame _ v _)).mono (by simp)
  · exact OnlyChanges.refl _ _

theorem takeFlip_frame : OnlyChanges [.attach, viewPart v] s (s.takeFlip v) := by
  unfold State.takeFlip
  dsimp only
  split
  · exact ((setViewSettings_frame s v _).append (setView_frame _ v _)).mono (by simp)
  · exact OnlyChanges.refl _ _

theorem stopWork_frame : OnlyChanges [viewPart v, .ladder] s (s.stopWork v) := by
  unfold State.stopWork State.settleLadder
  split
  · exact ((setView_frame s v _).append (setLadder_frame _ _)).mono (by simp)
  · exact (setView_frame s v _).mono (by simp)

end ViewFrames

/-! ## The history store -/

section StoreFrames

variable (s : State)

theorem startRequest_frame (r : ArrayRequest) : OnlyChanges [.history] s (s.startRequest r) := by
  unfold State.startRequest
  split
  · split
    · exact setHistory_frame s _
    · exact OnlyChanges.refl _ _
  · exact setHistory_frame s _
  · exact setHistory_frame s _

theorem serveArray_frame : OnlyChanges [.history] s s.serveArray := by
  unfold State.serveArray
  dsimp only
  split
  · exact OnlyChanges.refl _ _
  · split
    · exact OnlyChanges.refl _ _
    · exact (setHistory_frame s _).trans (startRequest_frame _ _)
    · split
      · exact setHistory_frame s _
      · exact OnlyChanges.refl _ _

theorem clearStep_frame : OnlyChanges [.history, .attach, .path] s s.clearStep := by
  unfold State.clearStep
  dsimp only
  split
  · exact (setHistory_frame s _).mono (by simp)
  · exact OnlyChanges.refl _ _

theorem clearDone_frame : OnlyChanges [.history, .attach, .path] s s.clearDone := by
  unfold State.clearDone
  split
  · exact ((setHistory_frame s _).append (endLong_frame _ _ _)).mono (by simp)
  · exact OnlyChanges.refl _ _

theorem beginClear_frame : OnlyChanges [.history, .attach, .path] s s.beginClear :=
  ((setHistory_frame s _).mono (by simp)).trans (clearStep_frame _)

theorem afterOp_frame : OnlyChanges [.history, .attach, .path] s s.afterOp := by
  unfold State.afterOp
  dsimp only
  refine OnlyChanges.trans ?_ ((serveArray_frame _).mono (by simp))
  refine OnlyChanges.trans ?_ ((setHistory_frame _ _).mono (by simp))
  split
  · exact ((setHistory_frame s _).mono (by simp)).trans (beginClear_frame _)
  · exact ((setHistory_frame s _).mono (by simp)).trans (clearStep_frame _)

theorem checkUsable_frame :
    OnlyChanges [.history, .faults, .report, .statusWriter, .attach, .path] s s.checkUsable := by
  unfold State.checkUsable
  dsimp only
  split
  · split
    · refine OnlyChanges.trans ?_ ((endLong_frame _ _ _).mono (by simp))
      exact (((setHistory_frame s _).append (clearStored_frame _ _)).append (storeFail_frame _ _ _ _)).mono (by simp)
    · exact (((setHistory_frame s _).append (clearStored_frame _ _)).append (storeFail_frame _ _ _ _)).mono (by simp)
  · exact OnlyChanges.refl _ _

theorem retire_frame (i : Nat) :
    OnlyChanges [.history, .faults, .report, .statusWriter, .attach, .path] s (s.retire i) :=
  ((setHistory_frame s _).mono (by simp)).trans (checkUsable_frame _)

theorem spoil_frame (sector position : Nat) (f : BitVec 128 → Beat) :
    OnlyChanges [.history, .freeValues] s (s.spoil sector position f) :=
  ((setHistory_frame s _).append (useFree_frame _ _)).mono (by simp)

end StoreFrames

end Sys2Proof.Machine
end

