-- ==== Sys2Proof/Laws/Operations.lean ====
section
/-! SUPPORT. What each shared operation can do, said once: what enters the own-traffic queue, what a result posts, how a
write is answered, what evidence leaves alone, what a search finds, and what a word written to the history array reads as. -/

namespace Sys2Proof.Machine

/-- An item of the unit is due and waits, or its request stands in the own-traffic queue. -/
def State.Awaits (s : State) (item : UnitItem) : Prop := item ∈ s.attach.wanted ∨ s.ownQueued item.source = true

/-- The unit's waiting items and its request, and the own-traffic queue, which has at most grown, are all that changes. -/
def UnitGrows (s t : State) : Prop :=
  t.attach = { s.attach with wanted := t.attach.wanted, request := t.attach.request } ∧
    t.path = { s.path with own := t.path.own } ∧ s.path.own <+: t.path.own ∧
    t = (s.setAttach t.attach).setPath t.path

/-- What a search of the path's lists finds is the first element that meets its test. -/
theorem find?_iff_firstOf {α : Type} (p : α → Bool) (l : List α) (x : α) :
    l.find? p = some x ↔ FirstOf (fun y => p y = true) l x := by
  rw [List.find?_eq_some_iff_append]
  constructor
  · rintro ⟨h, before, after, rfl, hb⟩
    exact ⟨before, after, rfl, h, fun y hy => by simpa using hb y hy⟩
  · rintro ⟨before, after, rfl, h, hb⟩
    exact ⟨h, before, after, rfl, fun y hy => by simpa using hb y hy⟩

/-- Of the fault table, only the stored-this-cycle flags of the listed entries change, to clear (R145, R147). -/
@[simp] theorem clearStored_fault (s : State) (l : List Nat) (i : Nat) :
    (s.clearStored l).fault i = if i ∈ l then { s.fault i with stored := false } else s.fault i := by
  simp only [State.clearStored, State.fault, State.setFaults_faults, List.getD_eq_getElem?_getD, List.getElem?_mapIdx]
  cases s.faults[i]? with
  | none => simp only [Option.map_none, Option.getD_none]; split <;> rfl
  | some e => rfl

@[simp] theorem clearStored_length (s : State) (l : List Nat) : (s.clearStored l).faults.length = s.faults.length := by
  simp [State.clearStored]

namespace UnitGrows

theorem refl (s : State) : UnitGrows s s := ⟨rfl, rfl, List.prefix_rfl, rfl⟩

theorem trans {s t u : State} (h : UnitGrows s t) (k : UnitGrows t u) : UnitGrows s u := by
  obtain ⟨ha, hp, ho, he⟩ := h
  obtain ⟨ka, kp, ko, ke⟩ := k
  refine ⟨by rw [ka, ha], by rw [kp, hp], ho.trans ko, by rw [ke, he]; rfl⟩

end UnitGrows

namespace State

@[simp] theorem unitRequest_src (s : State) (item : UnitItem) : (s.unitRequest item).src = item.source := by
  cases item <;> rfl

@[simp] theorem requestOwn_own (s : State) (r : OwnRequest) : (s.requestOwn r).path.own = s.path.own ++ [r] := rfl

theorem ownQueued_append {s t : State} {l : List OwnRequest} (h : t.path.own = s.path.own ++ l) (src : OwnSource) :
    t.ownQueued src = (s.ownQueued src || l.any fun r => r.src == src) := by
  simp [State.ownQueued, h]

/-- The free unit issues its first item; a busy one, and one with nothing due, does nothing. -/
theorem pumpUnit_grows (s : State) : UnitGrows s s.pumpUnit := by
  unfold pumpUnit
  split
  · exact ⟨rfl, rfl, List.prefix_append _ _, rfl⟩
  · exact .refl s

/-- Issuing keeps every item waiting or puts it in the queue. -/
theorem pumpUnit_awaits (s : State) (item : UnitItem) (h : s.Awaits item) : s.pumpUnit.Awaits item := by
  unfold pumpUnit
  split
  next x y i w hr hw =>
    simp only [Awaits, requestOwn, setPath_attach, setAttach_attach]
    rcases h with h | h
    · rw [hw] at h
      rcases List.mem_cons.1 h with rfl | h
      · right; simp [ownQueued]
      · exact .inl h
    · right
      simpa [ownQueued] using Or.inl h
  next => exact h

/-- A wanted item is due or queued, and the unit has at most grown. -/
theorem want_spec (s : State) (item : UnitItem) : UnitGrows s (s.want item) ∧ (s.want item).Awaits item := by
  unfold want
  split
  next h =>
    refine ⟨.refl s, ?_⟩
    simpa [Awaits] using h
  next =>
    have g : UnitGrows s (s.setAttach { s.attach with wanted := s.attach.wanted ++ [item] }) :=
      ⟨rfl, rfl, List.prefix_rfl, rfl⟩
    exact ⟨g.trans (pumpUnit_grows _), pumpUnit_awaits _ item (.inl (by simp))⟩

/-- A result of the command in hand is posted. -/
theorem reply_posts (s : State) (h : Handover) (code : ResultCode) :
    Posts h code s ((s.setAttach { s.attach with inHand := none }).reply h.record.issue code) := by
  obtain ⟨⟨ha, hp, ho, -⟩, hw⟩ :=
    want_spec
      ((s.setAttach { s.attach with inHand := none }).setAttach
        { (s.setAttach { s.attach with inHand := none }).attach with
          immediate := { issue := h.record.issue, code := code, detail := 0, due := true } })
      .immediate
  exact ⟨ha, ho, hw⟩

/-- A write that is not outstanding is not answered. -/
theorem answerWrite_absent {s : State} {tag : Nat} (h : s.path.writeOf tag = none) (r : Resp) :
    s.answerWrite tag r = s := by
  simp [answerWrite, h]

/-- A burst that was open at a DETACH gives no evidence of the beats it drops (R42). -/
@[simp] theorem orderBreach_quietly (s : State) (v : Side) (reason o fill : Nat) (n : Option (BitVec 32)) :
    s.orderBreach v true reason o fill n = s := rfl

/-- With no command in hand the blockage evaluation uses the ladder's mode (R54). -/
theorem modeWithHold_of_none {s : State} (h : s.attach.inHand = none) : s.modeWithHold = s.ladder.mode := by
  simp [modeWithHold, h]

/-- Settings set again to what they are stay the same. -/
theorem takesParts_none (s : State) (v : Side) : TakesParts v none none s s := by
  have same : (fun c : Settings => { c with views := c.views.set v (c.views.get v) }) = id :=
    funext fun c => by cases v <;> rfl
  show s.attach =
    { s.attach with current := s.attach.current.map fun c => { c with views := c.views.set v (c.views.get v) } }
  rw [same, Option.map_id_fun, id]

/-- The pending development part of a view comes into force, and is pending no more (R173). -/
theorem takeDev_spec (s : State) (v : Side) :
    TakesParts v (s.view v).pendingDev none s (s.takeDev v) ∧
      (s.takeDev v).view v = { s.view v with pendingDev := none } := by
  cases hp : (s.view v).pendingDev with
  | none =>
    rw [show s.takeDev v = s by simp only [takeDev, hp]]
    exact ⟨takesParts_none s v, by rw [← hp]⟩
  | some d =>
    simp only [takeDev, hp, TakesParts, setView_attach, setViewSettings, viewSettings]
    refine ⟨?_, by cases v <;> rfl⟩
    cases h : s.attach.current
    · simp only [Option.map_none]; rw [← h]
    · simp

/-- The pending flip part of a view comes into force with its inversion flag, and is pending no more (R111, R173). -/
theorem takeFlip_spec (s : State) (v : Side) :
    TakesParts v none (s.view v).pendingFlip s (s.takeFlip v) ∧
      (s.takeFlip v).view v =
        { s.view v with
          pendingFlip := none
          inverted := (s.view v).pendingFlip.elim (s.view v).inverted FlipFields.inversion } := by
  cases hp : (s.view v).pendingFlip with
  | none =>
    rw [show s.takeFlip v = s by simp only [takeFlip, hp]]
    refine ⟨takesParts_none s v, ?_⟩
    simp only [Option.elim_none]; rw [← hp]
  | some f =>
    simp only [takeFlip, hp, TakesParts, setView_attach, setViewSettings, viewSettings]
    refine ⟨?_, by cases v <;> rfl⟩
    cases h : s.attach.current
    · simp only [Option.map_none]; rw [← h]
    · simp

/-- An ACTIVE marker that ends no CLEAR_HISTORY posts nothing (R152). -/
theorem clearDone_of_ne {s : State} (h : s.history.clearing ≠ some .marking) : s.clearDone = s := by
  simp [clearDone, h]

end State

/-! ## The history array -/

namespace History

/-- A word written reads back. -/
theorem word_setWord (h : History) (i p : Nat) (w : Beat) (hp : p < (h.sectors.getD i []).length) :
    (h.setWord i p w).word i p = w := by
  have hi : i < h.sectors.length := by
    by_contra hi
    rw [List.getD_eq_getElem?_getD, List.getElem?_eq_none (by omega)] at hp
    simp at hp
  simp only [word, setWord, updateAt, List.getD_eq_getElem?_getD, List.getElem?_modify, hi, List.getElem?_eq_getElem,
    Option.getD_some] at hp ⊢
  simp [hp]

/-- Every other word is as it was. -/
theorem word_setWord_of_ne (h : History) (i p j q : Nat) (w : Beat) (hn : j ≠ i ∨ q ≠ p) :
    (h.setWord i p w).word j q = h.word j q := by
  simp only [word, setWord, updateAt, List.getD_eq_getElem?_getD, List.getElem?_modify]
  by_cases hj : i = j
  · subst hj
    have hq : p ≠ q := by rcases hn with hn | hn; exacts [absurd rfl hn, fun e => hn e.symm]
    cases hs : h.sectors[i]? <;> simp [hq]
  · simp [hj]

/-- A write changes nothing but the sectors, and neither their number nor their lengths. -/
theorem setWord_lengths (h : History) (i p : Nat) (w : Beat) :
    (h.setWord i p w).sectors.map List.length = h.sectors.map List.length := by
  apply List.ext_getElem?
  intro j
  simp only [setWord, updateAt, List.getElem?_map, List.getElem?_modify]
  cases h.sectors[j]? <;> simp
  split <;> simp

/-- The sector found as the oldest is a FULL one, so a RETIRED sector is never listed for it (R146). -/
theorem oldestFull_full {h : History} {j : Nat} (hj : h.oldestFull = some j) : h.state j = .full := by
  unfold oldestFull at hj
  revert hj
  generalize List.range 8 = l
  suffices key : ∀ best : Option (Nat × Nat), (∀ p ∈ best, h.state p.2 = .full) →
      ∀ p ∈ l.foldl
        (fun (best : Option (Nat × Nat)) i =>
          if h.state i = .full then
            let n := (headerSerial (h.word i 0)).toNat
            match best with
            | some (m, j) => if n < m then some (n, i) else some (m, j)
            | none => some (n, i)
          else best) best, h.state p.2 = .full by
    intro hj
    obtain ⟨p, hp, rfl⟩ := Option.map_eq_some_iff.1 hj
    exact key none (by simp) p hp
  induction l with
  | nil => exact fun best hb => hb
  | cons i l ih =>
    intro best hb
    refine ih _ ?_
    dsimp only
    split
    · next hf =>
      rcases best with _ | ⟨m, k⟩
      · rintro p ⟨⟩; exact hf
      · dsimp only
        split
        · rintro p ⟨⟩; exact hf
        · exact hb
    · exact hb

end History

end Sys2Proof.Machine
end

