-- ==== Sys2Proof/Tests/Slice0.lean ====
section
/-! SUPPORT. Small tests. The expected values come from the worked examples of spec/ (each test names its section) or
from the rule it names; `witness_…` shows that the hypotheses of the obligation of that name are met. -/

namespace Sys2Proof.Tests

open Sys2Proof.Machine

set_option Elab.async false

/-! ## Small states -/

/-- W = VW = 256, H = VH = 128: a raw frame of 131,072 bytes, a slot of 65,536. -/
def geometry (b : Nat) : Geometry where
  w := 256
  h := 128
  vw := 256
  vh := 128
  bases := [BitVec.ofNat 36 b, BitVec.ofNat 36 (b + 0x10000), BitVec.ofNat 36 (b + 0x20000)]

/-- The snapshot fields of section 2.6, with a curve whose entries 4 and 5 are 72 and 88. -/
def dev : DevFields where
  black := 64
  ratio := 16
  knee := 2816
  shift := 3
  curveA := [0, 20, 40, 60, 72, 88] ++ List.replicate 59 255
  curveB := List.replicate 65 100
  glareThreshold := 4096

/-- The backlight fields of section 7.7 and the pan steps of section 4.11. -/
def flipF : FlipFields where
  pattern := 0x80108010
  protect := 200
  panStepX := 64
  panStepY := 8
  glareMin := 200
  slope := 512
  gainFloor := 96
  stepDown := 32
  stepUp := 16
  dayDuty := 9000
  duskDuty := 6000
  nightDuty := 3000
  blankDuty := 1500
  glareTrim := 1000
  dutyMin := 500
  dutyMax := 9500
  blStep := 800
  inversion := false

def viewSettings (b : Nat) : ViewSettings where
  geometry := geometry b
  dev := dev
  flip := flipF
  limits := { darkLevel := 10, blockedTiles := 64, staleLimit := 100000, startLimit := 500000, latencyLimit := 50000 }

/-- The table: CONTROL, CAPTURE and VIEW of LEFT, GUARD. -/
def cfg : Settings where
  table :=
    [some ⟨.control, 0x010000000, 12⟩, some ⟨.capture .left 0x10 0x30, 0x011000000, 17⟩, some ⟨.view .left, 0x012000000, 16⟩,
      some ⟨.guard, 0x013000000, 12⟩, none, none, none, none]
  reportArea := 0x014000000
  ladder :=
    { nightEnter := 20, nightExit := 30, duskEnter := 70, duskExit := 90, dayForce := 200, dwellDown := 5000,
      dwellUp := 2000 }
  counts := { safety := 2, warning := 1, freeze := 2, safetyHeal := 3, warningHeal := 1 }
  attention := true
  lock := false
  pwmDivider := 2
  pwmPeriod := 9998
  views := { left := viewSettings 0x020000000, right := viewSettings 0x030000000 }

def freeSlot (b : Addr) : Slot := { state := .free, pinRequest := false, base := b, reads := 0, frame := none }

/-- A frame with its fill point. -/
def frame (n : BitVec 32) (fill : Nat) : Frame :=
  { sequence := n, captureTime := 0, fillPoint := fill, gap := false, writes := 0, signature := 0x55,
    tiles := List.replicate 128 { lumaSum := 25600, glareCount := 0 }, snapshot := ⟨64, 16, 2816, 3, dev.curveA, 4096⟩,
    staleLatched := false }

/-- A slot that holds a complete frame. -/
def fullSlot (st : SlotState) (b : Addr) (n : BitVec 32) (reads : Nat) : Slot :=
  { state := st, pinRequest := false, base := b, reads := reads, frame := some (frame n 131072) }

/-- A FILLING slot. -/
def fillingSlot (b : Addr) (n : BitVec 32) (fill : Nat) : Slot :=
  { state := .filling, pinRequest := false, base := b, reads := 0, frame := some (frame n fill) }

/-- ATTACHED with the settings above, both views STOPPED, commands answered up to issue number 40. -/
def attached : State :=
  { State.reset with
    attach := { State.reset.attach with state := .attached, current := some cfg, lastIssue := 40, driveCycle := 7 }
    views :=
      { left := { View.reset with slots := cfg.views.left.geometry.bases.map freeSlot }
        right := { View.reset with slots := cfg.views.right.geometry.bases.map freeSlot } }
    history := { State.reset.history with scanning := false, usable := 8, activeOpen := true } }

/-- A state whose LEFT view is changed. -/
def withLeft (s : State) (f : View → View) : State := s.setView .left (f (s.view .left))

/-- LEFT RUNNING: slot 0 SHOWN with frame 10, slot 1 READY with frame 11, slot 2 FREE, nothing in capture. -/
def running : State :=
  (withLeft attached fun x =>
    { x with
      state := .running
      nextSequence := some 12
      shown := some 0
      staged := 6000
      pan := (0, 0)
      slots := [fullSlot .shown 0x020000000 10 0, fullSlot .ready 0x020010000 11 0, freeSlot 0x020020000] }).setTimebase
    1000

/-- LEFT RUNNING with slot 2 FILLING frame 12 up to a fill point. -/
def filling (fill : Nat) : State :=
  withLeft running fun x =>
    { x with
      nextSequence := some 13
      capture := .slotted 2
      slots := [fullSlot .shown 0x020000000 10 0, fullSlot .ready 0x020010000 11 0, fillingSlot 0x020020000 12 fill] }

/-- The handover of a command record with an issue number, a code and argument A. -/
def handover (n : BitVec 32) (code : Byte) (a : BitVec 64) : Handover := { tag := 0, record := ⟨n, code, a, 0⟩ }

/-- A state with a command in hand. -/
def hand (s : State) (code : Byte) (a : BitVec 64) : State :=
  s.setAttach { s.attach with inHand := some (handover 41 code a) }

/-- A state with one part of its path unit changed. -/
def withPath (s : State) (f : Path → Path) : State := s.setPath (f s.path)

/-- A state with the history store changed. -/
def withStore (s : State) (f : History → History) : State := s.setHistory (f s.history)

/-- A state with one fault entry changed. -/
def withFault (s : State) (i : Nat) (f : FaultEntry → FaultEntry) : State := s.setFault i (f (s.fault i))

/-- What is read of the state a command leaves; `none` where it stops. -/
def after {α : Type} (i : Instr) (s : State) (f : State → α) : Option α :=
  match exec i s with
  | .next t => some (f t)
  | _ => none

def incr (id : BusId) (addr : Addr) (len : Nat) : AddrPhase := incrBurst id addr len

/-- An outstanding write with one beat left of a burst. -/
def upW (tag : Nat) (a : AddrPhase) (cls : WriteClass) (left : Nat) : UpWrite :=
  { upWrite tag a cls none with left := left }

/-- A granted own write of a source, all its data sent. -/
def ownWrite (src : OwnSource) (addr : Addr) : DownWrite :=
  { owner := .own src, tag := 0, upId := 0x3D, a := incr 0x3D addr 1, unsent := 0, buffer := [] }

/-! ## Well-formedness: one ill-formed term for each check -/

theorem test_size_refused : (Instr.fabricWriteAccept { incr 0 0 1 with size := 5 }).wellFormed = false := by decide

theorem test_incr_empty_refused : (Instr.fabricReadAccept (incr 0 0 0)).wellFormed = false := by decide

theorem test_incr_long_refused : (Instr.fabricReadAccept (incr 0 0 257)).wellFormed = false := by decide

theorem test_fixed_long_refused : (Instr.fabricWriteAccept { incr 0 0 17 with burst := .fixed }).wellFormed = false := by
  decide

theorem test_fixed_empty_refused : (Instr.fabricWriteAccept { incr 0 0 0 with burst := .fixed }).wellFormed = false := by
  decide

theorem test_wrap_length_refused : (Instr.fabricWriteAccept { incr 0 0 3 with burst := .wrap }).wellFormed = false := by
  decide

theorem test_wrap_unaligned_refused :
    (Instr.fabricWriteAccept { incr 0 8 4 with burst := .wrap }).wellFormed = false := by decide

theorem test_wrap_accepted : (Instr.fabricWriteAccept { incr 0 16 4 with burst := .wrap }).wellFormed = true := by decide

theorem test_exokay_refused : (Instr.statusWriteResponse .exokay).wellFormed = false := by decide

theorem test_fetch_length_refused :
    (Instr.settingsFetchReturn (List.replicate 63 ⟨0, .okay⟩)).wellFormed = false := by decide

theorem test_piece_exokay_refused : (Instr.readPieceReturn .left [⟨0, .exokay⟩]).wellFormed = false := by decide

/-- An ill-formed command stops. -/
theorem test_ill_formed_stops : exec (.statusWriteResponse .exokay) State.reset = .fault .illFormed := by rfl

/-- An answer that nothing awaits stops. -/
theorem test_no_transaction_stops : exec (.statusWriteResponse .okay) State.reset = .fault .noTransaction := by rfl

/-- No word spells a command (log entry 3). -/
theorem test_no_word_spells : decodeTableWord 8 1 = none := by rfl

/-- The command at the front of the queue is run (log entry 2). -/
theorem test_step_front : step (State.reset.setPending [.timebaseTick]) = exec .timebaseTick State.reset := by rfl

/-- On an empty queue the part idles (log entry 2). -/
theorem test_step_idles : step State.reset = .next State.reset := by rfl

/-! ## Resets, clocks and strobes -/

/-- R167: the straps select the anchor address. -/
theorem test_power_on_anchor :
    after (.powerOnReset true false) running (fun t => t.attach.anchor) = some 0x1FFF00000 := by rfl

/-- R149: the activity after a power-on reset is SCANNING. -/
theorem test_power_on_scans : after (.powerOnReset false false) running (fun t => t.history.activity) = some .scanning := by
  rfl

/-- R150: the history lock is kept over a link reset. -/
theorem test_link_reset_keeps_lock :
    after (.linkReset false false) (withStore running fun h => { h with lock := true }) (fun t => t.history.lock) =
      some true := by rfl

/-- R150: an erase in progress is abandoned and its sector heads the erase list (section 9.9). -/
theorem test_link_reset_lists_erase :
    after (.linkReset false false)
        (withStore running fun h => { h with erase := some ⟨6, 6160, 2, .running, false⟩, eraseList := [3] })
        (fun t => (t.history.erase, t.history.eraseList)) = some (none, [6, 3]) := by rfl

/-- R100: the timebase wraps. -/
theorem test_tick_wraps :
    after .timebaseTick (running.setTimebase 0xFFFFFFFF) (fun t => t.timebase) = some 0 := by rfl

/-- Section 9.9: an erase with 10,960 µs left loses one of them. -/
theorem test_tick_erase :
    after .timebaseTick (withStore running fun h => { h with erase := some ⟨6, 10960, 2, .running, false⟩ })
        (fun t => t.history.erase) = some (some ⟨6, 10959, 2, .running, false⟩) := by rfl

/-- The counter of section 7.6 at a count. -/
def counting (n d : Nat) : State :=
  (withLeft running fun x => { x with working := d, staged := 2000 }).setPwm
    { counting := true, counter := n, workingD := 2, workingP := 9998, stagedD := 2, stagedP := 4998 }

/-- Section 7.6: at the wrap from 9,999 the staged duty and period are loaded. -/
theorem test_pwm_wrap :
    after .pwmWrap (counting 9999 2500) (fun t => (t.pwm.counter, t.pwm.workingP, (t.view .left).working)) =
      some (0, 4998, 2000) := by rfl

/-- Section 7.6: between wraps nothing is loaded. -/
theorem test_pwm_clock :
    after .pwmClock (counting 9998 2500) (fun t => (t.pwm.counter, t.pwm.workingP, (t.view .left).working)) =
      some (9999, 9998, 2500) := by rfl

/-- Section 7.6: LEFT is high up to 2,499 and low from 2,500 on. -/
theorem test_pwm_output :
    ((counting 2499 2500).backlightHigh .left, (counting 2500 2500).backlightHigh .left) = (true, false) := by decide

/-- R8 to R10: the strobe opens frame 12 in the FREE slot. -/
theorem test_capture_strobe :
    after (.captureStrobe .left) running (fun t =>
        ((t.view .left).capture, (t.view .left).nextSequence, ((t.view .left).slots.map Slot.sequence))) =
      some (.slotted 2, some 13, [some 10, some 11, some 12]) := by rfl

/-- R9: with no FREE slot the READY frame that is not shown yet gives up its slot. -/
theorem test_capture_strobe_takes_ready :
    after (.captureStrobe .left)
        (withLeft running fun x => { x with slots := [fullSlot .shown 0 10 0, fullSlot .ready 0 11 0, fullSlot .draining 0 9 1] })
        (fun t => (t.view .left).capture) = some (.slotted 1) := by rfl

/-- R13: the flip shows frame 11, and the slot shown before becomes FREE. -/
theorem test_display_strobe :
    after (.displayStrobe .left) running (fun t => ((t.view .left).shown, (t.view .left).slots.map Slot.state)) =
      some (some 1, [.free, .shown, .free]) := by rfl

/-- Sections 4.11 and 7.7: the origin moves by 64 and 8, and the duty by 800 toward the night duty. -/
theorem test_display_strobe_slews :
    after (.displayStrobe .left)
        ((withLeft running fun x => { x with pan := (128, 40), panTarget := (256, 0) }).setLadder ⟨.night, none, none⟩)
        (fun t => ((t.view .left).pan, (t.view .left).staged)) = some ((192, 32), 5200) := by rfl

/-! ## The fabric port -/

/-- The table of section 10.8 over a LEFT view of 1,280 by 800 pixels with slot S0 at 0x6000_0000. -/
def traffic : State :=
  (withLeft running fun x => { x with slots := [fullSlot .shown 0x060000000 10 0] }).setAttach
    { running.attach with
      current := some
        { cfg with
          table :=
            [some ⟨.guard, 0x040000000, 20⟩, some ⟨.capture .left 0x10 0x30, 0x050000000, 23⟩,
              some ⟨.view .left, 0x050800000, 22⟩, some ⟨.control, 0x051000000, 12⟩, none, none, none, none]
          views :=
            { left := { viewSettings 0 with geometry := { w := 1280, h := 800, vw := 1024, vh := 720, bases := [] } }
              right := viewSettings 0x030000000 } } }

/-- Section 10.8, the writes. -/
theorem test_write_classes :
    [incr 0x13 0x050001000 16, incr 0x23 0x050002000 16, incr 0x05 0x051000000 2, incr 0x07 0x0601F3FC0 8,
        incr 0x07 0x0601F3FC0 4, { incr 0x09 0x050800000 4 with burst := .fixed }].map (classifyWrite traffic) =
      [.capture .left 0x050000000 false, .refused (.captureRefused .left 4 0x2000), .control, .refused .nothing,
        .refused (.guardWrite 0x10), .refused .nothing] := by rfl

/-- Section 10.8, the reads. -/
theorem test_read_classes :
    [incr 0x05 0x050000000 4, { incr 0x07 0x060000040 4 with burst := .wrap }].map (classifyRead traffic) =
      [.zeros, .plain] := by rfl

/-- R157: a plain write asks the memory port for the same burst. -/
theorem test_write_accept :
    after (.fabricWriteAccept (incr 5 0x070000000 2)) running (fun t => t.path.readyW.map DownWrite.a) =
      some [incr 5 0x070000000 2] := by rfl

/-- R161: a seventeenth write is held. -/
theorem test_write_held :
    after (.fabricWriteAccept (incr 5 0x070000000 2))
        (withPath running fun p => { p with writes := List.replicate 16 (upW 0 (incr 0 0 1) .plain 1) })
        (fun t => t.path.writes.length) = some 16 := by rfl

/-- Section 10.8: a capture-aperture read gives SLVERR and zero beats. -/
theorem test_read_refused :
    after (.fabricReadAccept (incr 5 0x050000000 4)) traffic (fun t => t.out) =
      some [.upData 5 (List.replicate 4 ⟨0, .slverr⟩)] := by rfl

/-- R63: a forwarded view read is charged to the SHOWN slot. -/
theorem test_read_charged :
    after (.fabricReadAccept (incr 5 0x012000000 4)) running (fun t => (t.view .left).slots.map Slot.reads) =
      some [1, 0, 0] := by rfl

/-- Section 4.9: the burst at view offset 9,728 is split three ways. -/
theorem test_split_three_ways :
    (splitBurst { w := 1280, h := 800, vw := 1024, vh := 720, bases := [] } (128, 40) 0x060000000 9728 64).map
        (fun p => (p.slotOffset, p.len)) = [(114432, 16), (114688, 16), (115456, 32)] := by decide

/-- Section 4.9: view offset 10,560 is slot offset 115,776. -/
theorem test_translation :
    slotOffset { w := 1280, h := 800, vw := 1024, vh := 720, bases := [] } (128, 40) 10560 = 115776 := by decide

/-- Section 4.10: the pair (240, 180, 150, 90) under G = 128 and P_prot = 200. -/
theorem test_dim_pair : dimWord 200 128 (pairWord 240 180 150 90) = pairWord 220 154 150 109 := by decide

/-- Section 4.10: a pair with no luma above the protect level is unchanged. -/
theorem test_dim_protected : dimWord 200 128 (pairWord 180 180 150 90) = pairWord 180 180 150 90 := by decide

/-- A refused write with one beat left. -/
def refusing : State :=
  withPath running fun p =>
    { p with writes := [upW 3 (incr 5 0x013000000 1) (.refused (.guardWrite 3)) 1], nextTag := 4 }

/-- R157: after its last beat a refused write is answered SLVERR. -/
theorem test_refused_write_answered :
    after (.writeDataBeat 0 0xFFFF) refusing (fun t => t.out) = some [.upResponse 5 .slverr] := by rfl

/-- R122, R157: GUARD_WRITE occurs once, with the entry and the ID in its detail. -/
theorem test_refused_write_occurs :
    after (.writeDataBeat 0 0xFFFF) refusing (fun t => ((t.fault 22).occurrences, (t.fault 22).detail)) =
      some (1, some 0x00130000000503) := by rfl

/-! ## The capture stream -/

/-- Section 2.6: the merge. -/
theorem test_merge : mergeExposures (frame 0 0).snapshot 3000 200 = 2390 := by decide

/-- Section 2.6: the curve. -/
theorem test_tone_map : toneMap (frame 0 0).snapshot 2390 = 83 := by decide

/-- Section 2.6: a short sample at the black level. -/
theorem test_merge_black : mergeExposures (frame 0 0).snapshot 3200 60 = 0 := by decide

/-- Section 2.6: the falling segment. -/
theorem test_tone_map_falls :
    toneMap { (frame 0 0).snapshot with shift := 0, curve := List.replicate 15 0 ++ [100, 90] } 1000 = 94 := by decide

/-- Section 3.6: the signature over three words. -/
theorem test_signature : [0x80508040, 0x80518041, 0x80508040].foldl foldSignature 0 = (0x81B181C1 : BitVec 32) := by
  decide

/-- Section 2.8: a run from 4,112 with 6 beats is carried by 4 beats from slot offset 2,048. -/
theorem test_run_halves :
    (runWrite .right (upW 0 (incr 0 0 6) .plain 6) 2 0 0x060000000 (4112, 4192)).a = incr 0x3F 0x060000800 4 := by decide

/-- Section 2.7, step 4: the run of burst C begins at the fill point. -/
theorem test_run_behind : runOf 4608 64 5120 4096000 = some (5120, 5616) := by decide

/-- A capture burst of some beats at an aperture offset, of which some are left. -/
def capturing (offset len left : Nat) : UpWrite :=
  upW 7 (incr 0x13 (BitVec.ofNat 36 (0x011000000 + offset)) len) (.capture .left 0x011000000 false) left

/-- The open burst of `capturing`, bound to slot 2. -/
def openAt (offset : Nat) (b : Binding) (run : Option (Nat × Nat)) (cut : Option Nat) : OpenBurst :=
  { tag := 7, binding := b, nextOffset := offset, run := run, cut := cut, half := none, openFill := 0, lastFill := 0 }

/-- LEFT at a fill point with a capture burst whose first beat is still to come. -/
def burstWaits (fill offset len : Nat) : State :=
  withPath (filling fill) fun p => { p with writes := [capturing offset len len], nextTag := 8 }

/-- LEFT at a fill point with an open burst of 4 beats, 3 of them left. -/
def burstOpen (fill : Nat) (b : OpenBurst) : State :=
  withLeft (withPath (filling fill) fun p => { p with writes := [capturing 0 4 3], nextTag := 8 }) fun x =>
    { x with burst := some b }

/-- R27, R31: the burst opens, its run is issued and its first beat taken. -/
theorem test_capture_beat_opens :
    after (.captureBeat 0 0xFFFF) (burstWaits 0 0 4) (fun t =>
        (t.path.readyW.map DownWrite.a, (t.view .left).burst.bind OpenBurst.run,
          ((t.view .left).fillingWith 2 12).map Frame.fillPoint)) =
      some ([incr 0x3E 0x020020000 2], some (0, 48), some 16) := by rfl

/-- The capture writes of a state, all outstanding at a DETACH (R42). -/
def sinceDetach (s : State) : State := withPath s fun p => { p with writes := p.writes.map State.UpWrite.boundStopped }

/-- R29, R30: a beat of an unframed burst makes ORDER_BREACH occur; R42: not of a burst that was open at a DETACH. -/
theorem test_capture_beat_unframed :
    [burstOpen 16 (openAt 16 .unframed none none), sinceDetach (burstOpen 16 (openAt 16 .unframed none none))].map
        (fun s => after (.captureBeat 0 0xFFFF) s fun t => (t.fault 16).occurrences) = [some 1, some 0] := by rfl

/-- R54: a HOLD_MODE in hand counts with the completion, a RELEASE leaves the mode. -/
theorem test_mode_with_hold :
    [hand running 9 2, hand running 9 3, running].map State.modeWithHold = [.night, .day, .day] := by decide

/-! ## The memory port -/

/-- A granted development write of slot 2, all its data sent, and the capture burst it serves. -/
def devAnswered (fill : Nat) (f : Frame → Frame) : State :=
  withPath
    (withLeft (filling fill) fun x =>
      x.modifySlot 2 fun sl => { sl with frame := sl.frame.map fun g => f { g with writes := 1 } })
    fun p =>
      { p with
        writes := [{ capturing 0 4 0 with downResp := none }]
        downW := [{ owner := .dev .left 2 12, tag := 7, upId := 0x13, a := incr 0x3E 0x020020000 2, unsent := 0, buffer := [] }]
        nextTag := 8 }

/-- Section 2.7, step 3: a counted response with a fill point far from the end; the upstream answer is OKAY. -/
theorem test_response_counted :
    after (.downstreamWriteResponse .left .okay) (devAnswered 64 id) (fun t =>
        (((t.view .left).fillingWith 2 12).map Frame.writes, t.out)) = some (some 0, [.upResponse 0x13 .okay]) := by rfl

set_option maxRecDepth 20000 in
/-- R12, R50: the last response completes the frame READY, and the scene level is its mean luma. -/
theorem test_response_completes :
    after (.downstreamWriteResponse .left .okay) (devAnswered 131072 id) (fun t =>
        ((t.view .left).slots.map Slot.state, (t.view .left).capture, (t.view .left).level)) =
      some ([.shown, .ready, .ready], .none, 100) := by rfl

/-- Section 2.7: a frame with its gap flag set leaves its slot FREE. -/
theorem test_response_gapped :
    after (.downstreamWriteResponse .left .okay) (devAnswered 131072 fun f => { f with gap := true }) (fun t =>
        (t.view .left).slots.map Slot.state) = some [.shown, .ready, .free] := by rfl

/-- Section 5.10, steps 4 and 6: DAY to DUSK after 5 s. -/
theorem test_ladder_dusk :
    (Ladder.evaluate ⟨.day, none, some (.dayToDusk, 13000000)⟩ cfg.ladder (some 63) 18000000).mode = .dusk := by decide

/-- Section 5.10, step 12: the force to DAY. -/
theorem test_ladder_force :
    Ladder.evaluate ⟨.night, none, none⟩ cfg.ladder (some 210) 61000000 = ⟨.day, none, none⟩ := by decide

/-- Section 6.8, step 2 of flip 1: tile 58 is displaced, not tile 57. -/
theorem test_glare_displaces :
    (displaced [⟨40, 620, 217, 218⟩, ⟨57, 90, 256, 224⟩, ⟨58, 60, 256, 240⟩]).map GlareEntry.tile = some 58 := by decide

/-- Section 6.8: the targets of tiles 73 and 41. -/
theorem test_glare_target : (glareTarget flipF 8000 900, glareTarget flipF 8000 440) = (199, 228) := by decide

/-- A view read in flight with one piece of one beat. -/
def viewRead (held : List Beat) (outstanding : Nat) : State :=
  withPath
    (withLeft running fun x =>
      { x with
        slots := [fullSlot .draining 0x020000000 10 1, fullSlot .shown 0x020010000 11 0, freeSlot 0x020020000],
        shown := some 1 })
    fun p =>
      { p with
        reads :=
          [{ tag := 7, a := incr 5 0x012000000 1, held := [], passed := 0
             cls := .view { view := .left, kind := .forwarded, charged := some 0, pieces := [⟨0, 0, 0x020000000, 1⟩],
                            outstanding := outstanding, held := held, error := false, restarted := false } }]
        downR :=
          if outstanding = 0 then [] else
            [{ owner := .piece .left, tag := 7, a := incr 0x3E 0x020000000 1, unreturned := 1 }]
        nextTag := 8 }

/-- Section 4.9: the last piece lowers the count of a DRAINING slot, which becomes FREE. -/
theorem test_piece_frees :
    after (.readPieceReturn .left [⟨1, .okay⟩]) (viewRead [] 1) (fun t => ((t.view .left).slots.map Slot.state)) =
      some [.free, .shown, .free] := by rfl

/-- Section 4.9: a piece in error makes MEMORY_ERROR occur with the slot address. -/
theorem test_piece_error :
    after (.readPieceReturn .left [⟨1, .slverr⟩]) (viewRead [] 1) (fun t => (t.fault 23).detail) =
      some (some 0x00200000000001) := by rfl

/-- R67: undimmed data is released as it was read. -/
theorem test_view_read_release :
    after (.viewReadRelease 5) (viewRead [0x77] 0) (fun t => t.out) = some [.upData 5 [⟨0x77, .okay⟩]] := by rfl

/-- R64: a BLANKED view's read is released as the pattern. -/
theorem test_view_read_release_blanked :
    after (.viewReadRelease 5) (withLeft (viewRead [0x77] 0) fun x => { x with state := .blanked }) (fun t => t.out) =
      some [.upData 5 [⟨0x80108010801080108010801080108010, .okay⟩]] := by rfl

/-- A plain write granted and sent, and a plain read granted. -/
def plainAnswered (cls : WriteClass) (mask : BitVec 32) : State :=
  withPath running fun p =>
    { p with
      writes := [{ upW 7 (incr 5 0x010000000 2) cls 0 with watch := some (0x010000000, 32), mask := mask }]
      reads := [{ tag := 8, a := incr 6 0x070000000 2, cls := .plain, held := [], passed := 0 }]
      downW := [{ owner := .plain, tag := 7, upId := 5, a := incr 5 0x010000000 2, unsent := 0, buffer := [] }]
      downR := [{ owner := .plain, tag := 8, a := incr 6 0x070000000 2, unreturned := 2 }]
      nextTag := 9 }

/-- R163: a response is passed upstream unchanged. -/
theorem test_plain_response :
    after (.plainMemoryResponse (.write 5 .decerr)) (plainAnswered .plain 0) (fun t => t.out) =
      some [.upResponse 5 .decerr] := by rfl

/-- R160: the OKAY of a covering write of the command record waits for its handover. -/
theorem test_covering_response :
    after (.plainMemoryResponse (.write 5 .okay)) (plainAnswered .control 0xFFFFFFFF) (fun t =>
        (t.out, t.attach.handovers.length)) = some ([], 1) := by rfl

/-- Two writes of one ID, the second of which is answered first. -/
def heldBack (r : Option Resp) : State :=
  withPath running fun p =>
    { p with
      writes := [{ upW 7 (incr 5 0x070000000 1) .plain 0 with ready := r }, { upW 8 (incr 5 0x070000000 1) .plain 0 with ready := some .slverr }]
      nextTag := 9 }

/-- R162: nothing overtakes an earlier burst of its ID. -/
theorem test_held_response_waits : after (.heldResponseRelease .write 5) (heldBack none) (fun t => t.out) = some [] := by
  rfl

/-- R162: the oldest is returned. -/
theorem test_held_response_goes :
    after (.heldResponseRelease .write 5) (heldBack (some .okay)) (fun t => t.out) = some [.upResponse 5 .okay] := by rfl

/-- A forwarded write and the status write of section 10.9, at a count. -/
def contending (n : Nat) : State :=
  withPath running fun p =>
    { p with
      writes := [upW 7 (incr 5 0x070000000 1) .plain 1]
      readyW := [{ owner := .plain, tag := 7, upId := 5, a := incr 5 0x070000000 1, unsent := 1, buffer := [] }]
      own := [{ src := .status, addr := 0x014000000, len := 16, data := List.replicate 16 (.full 0) }]
      countW := n
      nextTag := 8 }

/-- Section 10.9: grant 8 is forwarded, and the count becomes 8. -/
theorem test_forwarded_grant :
    after (.forwardedRequestGrant .write) (contending 7) (fun t => (t.path.countW, t.path.readyW)) = some (8, []) := by rfl

/-- Section 10.9: grant 9 is the status write, and the count becomes 0. -/
theorem test_own_grant :
    after (.ownRequestGrant .write) (contending 8) (fun t => (t.path.countW, t.out.head?)) =
      some (0, some (.downWriteAddress (incr 0x3D 0x014000000 16))) := by rfl

/-- Section 10.9: below 8 the own request waits. -/
theorem test_own_grant_waits : after (.ownRequestGrant .write) (contending 7) (fun t => t.path.own.length) = some 1 := by
  rfl

/-! ## Commands of the command record -/

/-- R174: a record with the last issue number is unused, and its write is answered. -/
theorem test_handover_unused :
    after .commandHandover (running.setAttach { running.attach with handovers := [handover 40 2 0] }) (fun t =>
        (t.attach.inHand, t.attach.handovers)) = some (none, []) := by rfl

/-- Section 11.8: a command while one is in flight is answered BUSY. -/
theorem test_handover_busy :
    after .commandHandover
        (running.setAttach
          { running.attach with handovers := [handover 42 2 0], inFlight := some (.applySettings, 41), lastIssue := 41 })
        (fun t => (t.attach.immediate.issue, t.attach.immediate.code, t.attach.inFlight)) =
      some (42, .busy, some (.applySettings, 41)) := by rfl

/-- R174: an unknown code. -/
theorem test_unknown_code :
    after (.unknownCommandCode 99) (hand running 99 0) (fun t => (t.attach.immediate.code, t.attach.inHand)) =
      some (.badArgument, none) := by rfl

/-- Section 11.8: APPLY_SETTINGS is accepted, and the fetch waits behind the immediate result. -/
theorem test_apply_accepted :
    after (.applySettings 0x15000) (hand running 1 0x15000) (fun t =>
        (t.attach.immediate.code, t.attach.inFlight, t.path.own.map OwnRequest.src, t.attach.wanted)) =
      some (.accepted, some (.applySettings, 41), [.immediateResult], [.fetch 0x15000]) := by rfl

/-- R176: an address that is not a multiple of 4,096. -/
theorem test_apply_unaligned :
    after (.applySettings 0x15010) (hand running 1 0x15010) (fun t => (t.attach.immediate.code, t.attach.inFlight)) =
      some (.badArgument, none) := by rfl

/-- R17: START_VIEW of the STOPPED RIGHT view. -/
theorem test_start_view :
    after (.startView 1) (hand running 2 1) (fun t =>
        ((t.view .right).state, (t.view .right).startTime, (t.view .left).state)) = some (.starting, 1000, .running) := by
  rfl

/-- R17: START_VIEW of a RUNNING view. -/
theorem test_start_view_already :
    after (.startView 0) (hand running 2 0) (fun t => t.attach.immediate.code) = some .already := by rfl

/-- R18: the slots at STOP_VIEW, with reads outstanding on the SHOWN one. -/
theorem test_stop_view :
    after (.stopView 0)
        (hand (withLeft (filling 64) fun x => x.modifySlot 0 fun sl => { sl with reads := 2 }) 3 0)
        (fun t => ((t.view .left).slots.map Slot.state, (t.view .left).shown, (t.view .left).staged, t.safeLine .left)) =
      some ([.draining, .free, .free], none, 0, true) := by rfl

/-- Section 4.11: SET_PAN RIGHT, 300, 0. -/
theorem test_set_pan :
    after (.setPan 1 300 0)
        ((hand running 4 0x0000012C0001).setAttach
          { (hand running 4 0x0000012C0001).attach with
            current := some
              { cfg with
                views := { cfg.views with
                  right := { cfg.views.right with geometry := { w := 1280, h := 800, vw := 1024, vh := 720, bases := [] } } } } })
        (fun t => (t.view .right).panTarget) = some (256, 0) := by rfl

/-- R19: the pin request of the SHOWN slot. -/
theorem test_pin_frame :
    after (.pinFrame 0) (hand running 5 0) (fun t => (t.view .left).slots.map Slot.pinRequest) =
      some [true, false, false] := by rfl

/-- R20: a PINNED slot with reads outstanding goes to DRAINING. -/
theorem test_release_pin :
    after (.releasePin 0)
        (hand (withLeft running fun x => x.modifySlot 2 fun _ => fullSlot .pinned 0x020020000 9 1) 6 0)
        (fun t => (t.view .left).slots.map Slot.state) = some [.shown, .ready, .draining] := by rfl

/-- Records 0 to 2 written, none acknowledged. -/
def reported : State := running.setReport { running.report with produce := 3, held := true }

/-- R139: a count equal to produce is valid, and releases the writer. -/
theorem test_ack :
    after (.ackReports 3) (hand reported 7 3) (fun t => (t.report.consume, t.report.held, t.attention)) =
      some (3, false, false) := by rfl

/-- R139: a count above produce is refused, and the writer stays held. -/
theorem test_ack_refused :
    after (.ackReports 4) (hand reported 7 4) (fun t => (t.report.consume, t.report.held, t.attach.immediate.code)) =
      some (0, true, .badArgument) := by rfl

/-- Section 8.10, step 14: CLEAR_FAULT 0 of a RECOVERED entry. -/
theorem test_clear_fault :
    after (.clearFault 0) (hand (withFault running 0 fun e => { e with state := .recovered }) 8 0) (fun t =>
        ((t.fault 0).state, (t.fault 0).pending, t.safeLine .left)) = some (.clear, some .toClear, false) := by rfl

/-- R129: an ACTIVE entry. -/
theorem test_clear_fault_active :
    after (.clearFault 0) (hand (withFault running 0 fun e => { e with state := .active }) 8 0) (fun t =>
        ((t.fault 0).state, t.attach.immediate.code)) = some (.active, .stillActive) := by rfl

/-- R80: HOLD_MODE NIGHT. -/
theorem test_hold_mode : after (.holdMode 2) (hand running 9 2) (fun t => t.ladder) = some ⟨.night, some .night, none⟩ := by
  rfl

/-- R80: RELEASE with no hold in force. -/
theorem test_hold_release : after (.holdMode 3) (hand running 9 3) (fun t => t.attach.immediate.code) = some .already := by
  rfl

/-- A COPY_HISTORY in hand. -/
def copyHand (sector : Byte) (addr : BitVec 64) : State :=
  running.setAttach { running.attach with inHand := some ⟨0, ⟨41, 10, sector.setWidth 64, addr⟩⟩ }

/-- Section 9.9: a copy of the sector being erased is refused with BUSY. -/
theorem test_copy_busy :
    after (.copyHistory 6 0x70000000)
        (withStore (copyHand 6 0x70000000) fun h => { h with erase := some ⟨6, 20350, 1, .running, false⟩ })
        (fun t => t.attach.immediate.code) = some .busy := by rfl

/-- R151: a copy of another sector asks a running erase to suspend. -/
theorem test_copy_suspends :
    after (.copyHistory 5 0x70000000)
        (withStore (copyHand 5 0x70000000) fun h => { h with erase := some ⟨6, 20350, 1, .running, false⟩ })
        (fun t => (t.attach.immediate.code, t.history.activity)) = some (.accepted, .eraseSuspended) := by rfl

/-- R152: the confirmation is the complement of the issue number 41. -/
theorem test_clear_history :
    after (.clearHistory 0xFFFFFFD6)
        (withStore (hand running 11 0xFFFFFFD6) fun h => { h with known := .full :: List.replicate 7 .erased })
        (fun t => (t.attach.immediate.code, t.history.activity)) = some (.accepted, .clearing) := by rfl

/-- R152: the lock. -/
theorem test_clear_history_locked :
    after (.clearHistory 0xFFFFFFD6) (withStore (hand running 11 0xFFFFFFD6) fun h => { h with lock := true })
        (fun t => t.attach.immediate.code) = some .locked := by rfl

/-- R177: after DETACH the part is TRANSPARENT, with the queue empty and both safe lines asserted. -/
theorem test_detach :
    after .detach (hand (contending 0) 12 0) (fun t =>
        (t.attach.state, t.path.own, t.safeLine .left, t.safeLine .right)) = some (.transparent, [], true, true) := by rfl

/-- R42, R165: a capture write accepted before a DETACH binds as stopped when it opens. -/
theorem test_detach_binds_stopped :
    after .detach (hand (burstWaits 0 0 4) 12 0) (fun t => t.path.writes.map UpWrite.cls) =
      some [.capture .left 0x011000000 true] := by rfl

/-! ## Attaching and applying -/

/-- An anchor record with the settings address 0x15000 and drive cycle 9; the check field is its complement. -/
def anchor (check : BitVec 32) : Beat := (0 : BitVec 32) ++ check ++ (9 : BitVec 32) ++ (0x15 : BitVec 24) ++ (3 : Byte)

/-- A TRANSPARENT part with a copy to examine. -/
def examining (check : BitVec 32) : State :=
  State.reset.setAttach { State.reset.attach with anchorCopies := [anchor check] }

/-- R168, R169: a copy that passes. -/
theorem test_anchor_taken :
    after .anchorRecordWrite (examining 0xFFFEAFFF) (fun t =>
        (t.attach.state, t.attach.heldCycle, t.path.own.map OwnRequest.addr)) = some (.attaching, 9, [0x15000]) := by rfl

/-- R168: a copy whose check field fails is dropped. -/
theorem test_anchor_dropped :
    after .anchorRecordWrite (examining 0) (fun t => (t.attach.state, t.attach.anchorCopies)) = some (.transparent, []) := by
  rfl

/-- The fetch of the block at 0x15000 granted. -/
def fetching (s : State) (st : AttachState) : State :=
  withPath
    (s.setAttach { s.attach with state := st, request := some ⟨.fetch 0x15000, false⟩, heldCycle := 9 })
    fun p => { p with downR := [{ owner := .own, tag := 0, a := incr 0x3D 0x15000 64, unreturned := 64 }] }

/-- A block of zeros, whose format field 0 breaks its condition, with one response. -/
def badBlock (r : Resp) : List RBeat := ⟨0, r⟩ :: List.replicate 63 ⟨0, .okay⟩

/-- A fetch that a DETACH has voided, with the fetch of a new attach due. -/
def voided (st : AttachState) : State :=
  let s := fetching State.reset st
  s.setAttach { s.attach with request := some ⟨.fetch 0x15000, true⟩, wanted := [.fetch 0x16000] }

set_option maxRecDepth 20000 in
/-- R177: its data is discarded, and the new fetch is requested. -/
theorem test_fetch_voided :
    after (.settingsFetchReturn (badBlock .okay)) (voided .attaching) (fun t =>
        (t.attach.state, t.attach.request, t.path.own.map fun r => (r.src, r.addr))) =
      some (.attaching, some ⟨.fetch 0x16000, false⟩, [(.fetch, 0x16000)]) := by rfl

set_option maxRecDepth 20000 in
/-- R169: a rejected block gives NOT_ATTACHED with the index, here 0. -/
theorem test_fetch_rejected :
    after (.settingsFetchReturn (badBlock .okay)) (fetching State.reset .attaching) (fun t =>
        (t.attach.state, t.attach.anchorWord, t.path.own.map OwnRequest.src)) = some (.attaching, 10, [.anchorResult]) := by
  rfl

set_option maxRecDepth 20000 in
/-- R169: an error response gives FAILED, and MEMORY_ERROR occurs. -/
theorem test_fetch_failed :
    after (.settingsFetchReturn (badBlock .slverr)) (fetching State.reset .attaching) (fun t =>
        (t.attach.anchorWord, (t.fault 23).occurrences)) = some (11, 1) := by rfl

/-- A granted own write that only awaits its answer. -/
def awaiting (s : State) (src : OwnSource) (item : UnitItem) : State :=
  withPath (s.setAttach { s.attach with request := some ⟨item, false⟩ }) fun p =>
    { p with downW := [ownWrite src 0x014000100] }

/-- R169: the answer to the anchor result write ends ATTACHING. -/
theorem test_anchor_result :
    after (.anchorResultWriteResponse .slverr)
        (awaiting (State.reset.setAttach { State.reset.attach with state := .attaching }) .anchorResult .anchorResult)
        (fun t => (t.attach.state, (t.fault 23).occurrences)) = some (.transparent, 1) := by rfl

/-- R175: an image that was not replaced is no longer due. -/
theorem test_result_done :
    after (.resultWriteResponse .okay)
        (awaiting (running.setAttach { running.attach with immediate := ⟨41, .done, 0, true⟩ }) .immediateResult .immediate)
        (fun t => (t.attach.immediate.due, t.attach.request)) = some (false, none) := by rfl

/-- R175: an image that was replaced while in flight stays due and is issued again. -/
theorem test_result_replaced :
    after (.resultWriteResponse .okay)
        (awaiting
          (running.setAttach { running.attach with immediate := ⟨42, .busy, 0, true⟩, wanted := [.immediate] })
          .immediateResult .immediate)
        (fun t => (t.attach.immediate.due, t.path.own.map OwnRequest.src)) = some (true, [.immediateResult]) := by rfl

/-! ## The report writer and the history store -/

/-- Entry 4 unreported, produce at 65. -/
def unreported : State :=
  (withFault running 4 fun e => { e with state := .active, pending := some .toActive, occurrences := 1 }).setReport
    { running.report with backlog := [4], produce := 65, consume := 65 }

/-- R137: the record goes to ring position 65 mod 64 = 1. -/
theorem test_record_issue :
    after .recordWriteIssue unreported (fun t => (t.path.own.map OwnRequest.addr, t.report.flight)) =
      some ([0x014000120], some ⟨4, false, false⟩) := by rfl

/-- Entry 4's record granted. -/
def recordAnswered : State :=
  withPath (unreported.setReport { unreported.report with flight := some ⟨4, false, false⟩ }) fun p =>
    { p with downW := [ownWrite .record 0x014000120] }

/-- R137: an OKAY completes the record. -/
theorem test_record_done :
    after (.reportRecordWriteResponse .okay) recordAnswered (fun t =>
        (t.report.produce, t.report.backlog, (t.fault 4).pending)) = some (66, [], none) := by rfl

/-- R138: an error holds the writer. -/
theorem test_record_held :
    after (.reportRecordWriteResponse .slverr) recordAnswered (fun t =>
        (t.report.produce, t.report.backlog, t.report.held)) = some (65, [4, 23], true) := by rfl

/-- A status write due. -/
def statusDue : State :=
  running.setReport { running.report with status := { running.report.status with due := true, changed := true } }

/-- R142: the write is issued, and the holdoff of 1 ms begins. -/
theorem test_status_issue :
    after .statusWriteIssue statusDue (fun t =>
        (t.report.status.writeCount, t.report.status.holdoff, t.path.own.map OwnRequest.addr)) =
      some (1, 1000, [0x014000000]) := by rfl

/-- A status write granted. -/
def statusAnswered : State :=
  withPath
    (running.setReport
      { running.report with status := { running.report.status with due := true, changed := false, flight := some ⟨false⟩ } })
    fun p => { p with downW := [ownWrite .status 0x014000000] }

/-- R142: with no change since the issue the write is no longer due. -/
theorem test_status_done :
    after (.statusWriteResponse .okay) statusAnswered (fun t => t.report.status.due) = some false := by rfl

/-- R142: an error suspends status writes. -/
theorem test_status_suspended :
    after (.statusWriteResponse .decerr) statusAnswered (fun t => (t.report.status.suspended, t.report.status.due)) =
      some (true, true) := by rfl

/-- The store of section 9.9: sector 5 active at a position, sector 6 being erased, entry 4 in the queue. -/
def storing (f : History → History) : State :=
  withStore running fun h =>
    f { h with active := 5, activeOpen := true, serial := 38, nextPosition := 1, nextRecord := 2392, queue := [4] }

/-- Section 9.9 at 10,000 µs: the suspension is requested. -/
theorem test_store_request :
    after .storeRequestServe (storing fun h => { h with erase := some ⟨6, 20000, 0, .running, false⟩ }) (fun t =>
        (t.history.activity, t.history.erase)) = some (.eraseSuspended, some ⟨6, 20000, 0, .requested, false⟩) := by rfl

/-- R154: a request taken when the erase's time has run out, before its end, suspends it. -/
theorem test_store_request_at_end :
    after .storeRequestServe (storing fun h => { h with erase := some ⟨6, 0, 0, .running, false⟩ }) (fun t =>
        t.history.erase) = some (some ⟨6, 0, 0, .requested, true⟩) := by rfl

/-- Section 9.9 at 10,150 µs: it takes effect and the program starts. -/
theorem test_suspend_effect :
    after .eraseSuspendEffect
        (storing fun h => { h with erase := some ⟨6, 19850, 0, .requested, false⟩, waiting := [.record] })
        (fun t => (t.history.activity, t.history.erase)) = some (.programming, some ⟨6, 19850, 1, .frozen, false⟩) := by rfl

/-- A program of entry 4 at its end. -/
def programmed (retried : Bool) : State :=
  storing fun h =>
    { h with erase := some ⟨6, 19850, 1, .frozen, false⟩, op := some (.record 4 0xFF000000000000000000000000000958 0),
             retried := retried }

set_option maxRecDepth 20000 in
/-- Section 9.9 at 10,230 µs: the record is committed and the erase resumes with 20,350 µs. -/
theorem test_record_program :
    after (.recordProgramDone true) (programmed false) (fun t =>
        (t.history.erase, t.history.nextPosition, t.history.nextRecord, t.history.queue, (t.fault 4).stored)) =
      some (some ⟨6, 20350, 1, .running, false⟩, 2, 2393, [], true) := by rfl

set_option maxRecDepth 20000 in
/-- R145: after a second failed try the request is discarded, its entry's stored flag clear though it was set, and the
record number stays. -/
theorem test_record_program_fails :
    after (.recordProgramDone false) (withFault (programmed true) 4 fun e => { e with stored := true }) (fun t =>
        (t.history.nextPosition, t.history.nextRecord, t.history.queue.contains 4, (t.fault 4).stored)) =
      some (2, 2392, false, false) := by rfl

/-- A header program at its end. -/
def header (i : Nat) (m : Marker) (usable : Nat) : State :=
  storing fun h => { h with queue := [], op := some (.header i m 0), usable := usable }

/-- A header program at its end while a CLEAR_HISTORY makes the new active sector. -/
def marking (m : Marker) : State :=
  withStore ((header 5 m 8).setAttach { running.attach with inFlight := some (.clearHistory, 40) }) fun h => { h with clearing := some .marking, needActive := some (1, 7) }

set_option maxRecDepth 20000 in
/-- R146: after the FULL marker of sector 5 the next ERASED sector gets the ACTIVE marker, the serial raised by one. Where
it fails, sector 5 is RETIRED, and not listed though the scan had found it FULL. -/
theorem test_header_full :
    after (.headerProgramDone true) (header 5 .full 8) (fun t => (t.history.state 5, t.history.op)) =
        some (.full, some (.header 6 (.active 39) 80)) ∧
      after (.headerProgramDone false)
          (withStore (header 5 .full 4) fun h => { h with known := (List.replicate 8 .retired).set 5 .full }) (fun t =>
          (t.history.state 5, t.history.op, t.history.eraseList, t.history.needActive)) =
        some (.retired, some (.header 5 .retired 80), [], some (39, 5)) := ⟨by rfl, by rfl⟩

set_option maxRecDepth 20000 in
/-- R147: below 3 usable sectors the store is DISABLED. R152: the ACTIVE marker of a clear ends it, and DONE follows. -/
theorem test_header_disables_or_ends_clear :
    after (.headerProgramDone false) (header 5 (.active 38) 3) (fun t =>
        (t.history.state 5, t.history.usable, t.history.activity)) = some (.retired, 2, .disabled) ∧
      after (.headerProgramDone true) (marking (.active 1)) (fun t =>
        (t.history.nextRecord, t.history.activity, t.attach.completion.code)) = some (1, .idle, .done) := ⟨by rfl, by rfl⟩

set_option maxRecDepth 20000 in
/-- Section 9.9 at 0 µs: the erase of sector 6 starts. -/
theorem test_erase_start :
    after .eraseStart (storing fun h => { h with eraseList := [6] }) (fun t =>
        (t.history.erase, t.history.eraseList, t.history.activity)) =
      some (some ⟨6, 30000, 0, .running, false⟩, [], .erasing) := by rfl

set_option maxRecDepth 20000 in
/-- Section 9.9 at 31,160 µs: the erase ends. -/
theorem test_erase_done :
    after (.eraseDone true) (storing fun h => { h with queue := [], erase := some ⟨6, 0, 2, .running, false⟩ }) (fun t =>
        (t.history.state 6, t.history.activity)) = some (.erased, .idle) := by rfl

set_option maxRecDepth 20000 in
/-- R147: a failed erase retires the sector and counts it out. -/
theorem test_erase_fails :
    after (.eraseDone false) (storing fun h => { h with queue := [], erase := some ⟨6, 0, 2, .running, false⟩ }) (fun t =>
        (t.history.state 6, t.history.usable, (t.fault 25).detail)) = some (.retired, 7, some 0x00000000000602) := by rfl

/-- A store that scans sector 0, ACTIVE with serial 5 and one committed record, number 7. -/
def scanning : State :=
  withStore running fun h =>
    { h with
      scanning := true
      usable := 0
      sectors := h.sectors.set 0
        ((erasedWord.extractLsb' 64 64 ++ (5 : BitVec 32) ++ markerActive) :: 7 :: List.replicate 62 erasedWord) }

/-- The same store with six RETIRED sectors, and a copy that waits for the scan. -/
def scanningWorn : State :=
  withStore scanning fun h =>
    { h with sectors := h.sectors.take 2 ++ List.replicate 6 (List.replicate 64 0), waiting := [.copy 3] }

set_option maxRecDepth 20000 in
/-- R147, R149, R151: the store becomes DISABLED with a fail of STORE_FAULT, and the copy is served. -/
theorem test_scan_worn :
    after .scanDone scanningWorn (fun t => (t.history.disabled, t.history.op, (t.fault 25).detail)) =
      some (true, some (.copy 3), some 0x0000000000FF03) := by rfl

/-- The same store with two sectors whose headers are none of the table's. -/
def scanningInvalid : State :=
  withStore scanning fun h =>
    { h with sectors := (h.sectors.set 5 (List.replicate 64 2)).set 2 ((List.replicate 64 erasedWord).set 0 1) }

set_option maxRecDepth 20000 in
/-- R149: the active sector, its next position, the next record number and the usable count. -/
theorem test_scan :
    after .scanDone scanning (fun t =>
        (t.history.active, t.history.nextPosition, t.history.nextRecord, t.history.usable)) = some (0, 2, 8, 8) := by rfl

/-- R151: the sector read goes out to the address of the copy. -/
theorem test_copy_read :
    after .historyCopyReadDone (withStore running fun h => { h with op := some (.copy 3), copyAddr := 0x070000000 })
        (fun t => t.path.own.map fun r => (r.addr, r.data.length)) = some [(0x070000000, 64)] := by rfl

/-- A copy whose write is granted. -/
def copyAnswered : State :=
  withPath
    (withStore (running.setAttach { running.attach with inFlight := some (.copyHistory, 41) }) fun h =>
      { h with copyFlight := some ⟨false⟩ })
    fun p => { p with downW := [ownWrite .copy 0x070000000] }

/-- R151: DONE is posted. -/
theorem test_copy_done :
    after (.historyCopyWriteResponse .okay) copyAnswered (fun t =>
        (t.attach.completion.code, t.attach.completion.issue, t.attach.inFlight)) = some (.done, 41, none) := by rfl

/-- R151: FAILED is posted. -/
theorem test_copy_failed :
    after (.historyCopyWriteResponse .slverr) copyAnswered (fun t => (t.attach.completion.code, (t.fault 23).occurrences)) =
      some (.failed, 1) := by rfl

/-! ## A valid settings block -/

/-- A block of 64 beats from fields (offset, bytes, value); every other byte is 0 (R180). -/
def block (fields : List (Nat × Nat × Nat)) : List Beat :=
  (List.range 64).map fun k =>
    fields.foldl
      (fun b (o, n, x) => if o / 16 = k then b ||| (BitVec.ofNat 128 (x % 256 ^ n) <<< (8 * (o % 16))) else b) 0

/-- The structural fields of a view block: 256 by 128 pixels and three slots from a base (R180). -/
def viewFields (o b : Nat) : List (Nat × Nat × Nat) :=
  [(o, 2, 256), (o + 2, 2, 128), (o + 4, 2, 256), (o + 6, 2, 128), (o + 8, 1, 3), (o + 16, 8, b), (o + 24, 8, b + 0x10000),
    (o + 32, 8, b + 0x20000)]

/-- Format 3, a CONTROL entry, the report area, the ladder levels of section 5.10 and two views. -/
def goodBlock : List Beat :=
  block
    ([(0, 1, 3), (8, 1, 3), (12, 1, 12), (16, 8, 0x010000000), (136, 8, 0x014000000), (144, 1, 20), (145, 1, 30),
        (146, 1, 70), (147, 1, 90), (148, 1, 200)] ++
      viewFields 256 0x020000000 ++ viewFields 640 0x030000000)

def goodBeats : List RBeat := goodBlock.map fun d => ⟨d, .okay⟩

set_option maxRecDepth 20000 in
/-- R171: the block is valid. -/
theorem test_block_valid : rejected goodBlock = none := by decide +kernel

set_option maxRecDepth 20000 in
/-- R172: 36 fields of zero lie below their ranges: 6 of the device and 15 of each view, the first of them index 17. -/
theorem test_block_clamped : ((clampedFields goodBlock).length, (clampedFields goodBlock).head?) = (36, some 17) := by
  decide +kernel

set_option maxRecDepth 20000 in
/-- R110, R169, R170: the attach is taken with the anchor's drive cycle and with both duties 0, and the result word is
DONE, 36, 17. -/
theorem test_attach_taken :
    after (.settingsFetchReturn goodBeats)
        (fetching (withLeft State.reset fun x => { x with staged := 7, working := 9 }) .attaching) (fun t =>
        ((t.attach.state, t.attach.driveCycle, t.attach.anchorWord), ((t.view .right).slots.length, t.pwm.counting),
          [(t.view .left).staged, (t.view .left).working])) =
      some ((.attached, 9, 0x00112401), (3, true), [0, 0]) := by decide +kernel

set_option maxRecDepth 20000 in
/-- R171: two slots that share a byte; the index of LEFT's second slot base is 32 + 6. -/
theorem test_block_slots_meet :
    fieldBroken (goodBlock.set 17 (BitVec.ofNat 128 (0x020000000 + 0x020000000 * 2 ^ 64))) 38 = true := by decide +kernel

/-- Two used entries, a CAPTURE entry of LEFT and one with the view byte 2. -/
def captureEntries : List Beat :=
  block
    [(0, 1, 3), (8, 1, 3), (12, 1, 12), (16, 8, 0x010000000), (24, 1, 1), (28, 1, 17), (32, 8, 0x011000000), (40, 1, 1),
      (41, 1, 2), (44, 1, 17), (48, 8, 0x018000000)]

set_option maxRecDepth 20000 in
/-- R171: the entry whose view names no view is the one at fault, by its own index 3, and LEFT's is not. -/
theorem test_block_view_byte :
    (fieldBroken captureEntries 1, fieldBroken captureEntries 2, fieldBroken captureEntries 3) = (false, false, true) := by
  decide +kernel

set_option maxRecDepth 20000 in
/-- R171: a RIGHT view of width 0 has slots of no bytes, which share none with LEFT's; its width is index 80. -/
theorem test_block_empty_slot :
    rejected (block
      ([(0, 1, 3), (8, 1, 3), (12, 1, 12), (16, 8, 0x010000000), (136, 8, 0x014000000), (144, 1, 20), (145, 1, 30),
          (146, 1, 70), (147, 1, 90), (148, 1, 200)] ++
        viewFields 256 0x020000000 ++ (640, 2, 0) :: (viewFields 640 0x020001000).drop 1)) = some 80 := by decide +kernel

/-! ## The hypotheses of the obligations are met

Each theorem names the obligation; where a statement has several clauses it shows a state for each. -/

theorem witness_StepRunsFrontCommand :
    (State.reset.setPending [.pwmClock]).pending = .pwmClock :: [] ∧ State.reset.pending = [] := by decide

/-- An answer the link cannot carry, one that nothing awaits, one of another length than was asked for, one that a fetch
awaits, and a row that is no answer. -/
theorem witness_CommandsStopOnlyOnImpossibleInput :
    (Instr.statusWriteResponse .exokay).wellFormed = false ∧ (Instr.statusWriteResponse .okay).wellFormed = true ∧
      NothingAwaits State.reset (.statusWriteResponse .okay) ∧
      NothingAwaits (fetching State.reset .attaching) (.settingsFetchReturn [⟨0, .okay⟩]) ∧
      (Instr.settingsFetchReturn (badBlock .okay)).wellFormed = true ∧
      ¬NothingAwaits (fetching State.reset .attaching) (.settingsFetchReturn (badBlock .okay)) ∧
      Instr.timebaseTick.wellFormed = true ∧ ¬NothingAwaits State.reset .timebaseTick := by
  refine ⟨rfl, rfl, rfl, fun d hd => ?_, by decide +kernel, fun h => ?_, rfl, id⟩
  · cases hd; exact .inr (by decide)
  · rcases h _ rfl with h | h <;> exact h rfl

/-- A record, each marker and an erase in progress at a reset, and a CLEAR_HISTORY. -/
theorem witness_ResetsLeaveResetValues :
    (programmed false).history.op.isSome = true ∧
      (∃ l, (programmed false).history.sectors[(programmed false).history.active]? = some l ∧
        (programmed false).history.nextPosition < l.length) ∧
      (∀ m ∈ [Marker.full, .active 38, .retired], (header 5 m 8).history.op = some (.header 5 m 0)) ∧
      ∀ f ∈ [fun (h : History) => { h with erase := some ⟨6, 5, 0, .running, false⟩ },
          fun h => { h with erase := some ⟨6, 5, 0, .running, false⟩, clearing := some .erasing }],
        (storing f).history.erase = some ⟨6, 5, 0, .running, false⟩ ∧ (storing f).history.scanning = false ∧
          (storing f).history.disabled = false := by
  refine ⟨rfl, ⟨_, rfl, by decide⟩, fun m _ => rfl, fun f hf => ?_⟩
  simp only [List.mem_cons, List.not_mem_nil, or_false] at hf
  rcases hf with rfl | rfl <;> exact ⟨rfl, rfl, rfl⟩

/-- The held, the counting and the wrapping counter. -/
theorem witness_TimeAndPwmAdvance :
    running.pwm.counting = false ∧ ((counting 9998 0).pwm.counting = true ∧ (counting 9998 0).pwm.counter < 9999) ∧
      ((counting 9999 0).pwm.counting = true ∧ (counting 9999 0).pwm.counter = (counting 9999 0).pwm.workingP + 1) := by
  decide

/-- No frame in capture, an empty, a short and an unslotted one; the last sequence and the exhausted one; a pending
development part and an open burst; no slot to take. -/
def strobed : List State :=
  [running, filling 0, filling 16, withLeft running fun x => { x with capture := .unslotted (some 11) },
    withLeft running fun x => { x with nextSequence := some (BitVec.allOnes 32) },
    withLeft (filling 0) fun x => { x with nextSequence := none }, withLeft running fun x => { x with nextSequence := none },
    withLeft running fun x =>
      { x with
        pendingDev := some { (cfg.views.get .left).dev with black := 7 }
        burst := some ⟨3, .unframed, 16, none, none, none, 0, 0⟩ },
    withLeft running fun x =>
      { x with
        slots := [fullSlot .shown 0x020000000 10 0, fullSlot .draining 0x020010000 9 1, fullSlot .pinned 0x020020000 8 0] }]

set_option maxRecDepth 20000 in
theorem witness_CaptureStrobeOpensFrame :
    ∀ s ∈ strobed, ViewsOk s ∧ FaultsOk s ∧ (s.view .left).live = true := by
  have h : ∀ s ∈ strobed, s.viewsChecked = true ∧ s.faultsChecked = true ∧ (s.view .left).live = true := by
    decide +kernel
  exact fun s hs => ⟨viewsOk_of_checked (h s hs).1, faultsOk_of_checked (h s hs).2.1, (h s hs).2.2⟩

theorem witness_StoppedViewsOnlyLatchStrobes :
    StoreQueueOk attached ∧ (attached.view .left).state = .stopped := by
  exact ⟨storeQueueOk_of_checked (by decide), by decide⟩

/-- A view that flips with slot 1 READY: RUNNING, with a pending flip part, its SHOWN slot pin-requested or read, STARTING,
and BLANKED under an ACTIVE entry. -/
def flipping : List State :=
  [running, withLeft running fun x => { x with pendingFlip := some { (cfg.views.get .left).flip with inversion := true } },
    withLeft running fun x => x.modifySlot 0 fun sl => { sl with pinRequest := true },
    withLeft running fun x => x.modifySlot 0 fun sl => { sl with reads := 1 },
    withLeft running fun x =>
      { x with
        state := .starting
        shown := none
        slots := [fullSlot .ready 0x020000000 10 0, fullSlot .ready 0x020010000 11 0, freeSlot 0x020020000] },
    withFault (withLeft running fun x => { x with state := .blanked }) 0 fun e => { e with state := .active }]

set_option maxRecDepth 20000 in
theorem witness_FlipShowsNewestFrame :
    ∀ s ∈ flipping, BlankingOk s ∧ (s.view .left).live = true ∧
      (s.view .left).slots[1]? = some (fullSlot .ready 0x020010000 11 0) ∧
      ∀ (j : Nat) (sl' : Slot) (g : Frame), (s.view .left).slots[j]? = some sl' → j ≠ 1 → sl'.state = .ready →
        sl'.frame = some g → g.sequence.toNat < 11 := by
  have h : ∀ s ∈ flipping, s.blankingChecked = true ∧ (s.view .left).live = true ∧
      (s.view .left).slots[1]? = some (fullSlot .ready 0x020010000 11 0) ∧
      ∀ q ∈ (s.view .left).slots.zipIdx, q.2 ≠ 1 → q.1.state = .ready → ∀ g ∈ q.1.frame, g.sequence.toNat < 11 := by
    decide +kernel
  intro s hs
  refine ⟨blankingOk_of_checked (h s hs).1, (h s hs).2.1, (h s hs).2.2.1, fun j sl' g hj hn hr hf => ?_⟩
  exact (h s hs).2.2.2 (sl', j) (List.mem_zipIdx_iff_getElem?.2 hj) hn hr g hf

/-- A view that repeats: RUNNING, STARTING, and BLANKED. -/
def repeating : List State :=
  let s := withLeft running fun x => x.modifySlot 1 fun _ => freeSlot 0x020010000
  [s, withLeft attached fun x => { x with state := .starting },
    withFault (withLeft s fun x => { x with state := .blanked }) 0 fun e => { e with state := .active }]

set_option maxRecDepth 20000 in
theorem witness_RepeatFlipKeepsSlots :
    ∀ s ∈ repeating, BlankingOk s ∧ (s.view .left).live = true ∧
      ∀ sl : Slot, sl ∈ (s.view .left).slots → sl.state ≠ .ready := by
  have h : ∀ s ∈ repeating, s.blankingChecked = true ∧ (s.view .left).live = true ∧
      ∀ sl ∈ (s.view .left).slots, sl.state ≠ .ready := by decide +kernel
  exact fun s hs => ⟨blankingOk_of_checked (h s hs).1, (h s hs).2⟩

theorem witness_FlipSlewsPanAndDuty : running.attach.current = some cfg ∧ (running.view .left).live = true := by decide

/-- As many entries with a target. -/
def glares (n target : Nat) : List GlareEntry := (List.range n).map fun i => ⟨i, 300, target, 200⟩

set_option maxRecDepth 20000 in
/-- The tail of the list of section 6.8 under its fields, also under a floor lower than the new one; lists of 23 entries, of
24 DIMMING and of 24 RELEASING ones, tile 0 the one to displace; a flip and a repeat. -/
theorem witness_GlareWorkKeepsLaws :
    (let l : List GlareEntry := [⟨40, 600, 218, 218⟩, ⟨41, 450, 228, 228⟩, ⟨57, 150, 256, 224⟩, ⟨58, 120, 256, 240⟩]
     64 ≤ flipF.gainFloor ∧ flipF.gainFloor ≤ 256 ∧ GlareListOk l ∧
        ∀ floor ∈ [64, 96], ∀ e ∈ l, floor ≤ e.gain ∧ e.gain ≤ 256 ∧ floor ≤ e.target ∧ e.target ≤ 256) ∧
      ((glares 23 255).length < 24 ∧ 24 ≤ (glares 24 255).length ∧ (∀ e ∈ glares 24 255, e.target < 256) ∧
        ⟨0, 300, 256, 200⟩ ∈ glares 24 256 ∧
        ∀ e ∈ glares 24 256, 256 ≤ e.target → e ≠ ⟨0, 300, 256, 200⟩ → e.gain < 200 ∨ (e.gain = 200 ∧ 0 < e.tile)) ∧
      ∀ s ∈ flipping ++ repeating, s.attach.current = some cfg ∧ (s.view .left).live = true ∧ FaultsOk s ∧ ViewsOk s := by
  have h : ∀ s ∈ flipping ++ repeating, s.attach.current = some cfg ∧ (s.view .left).live = true ∧
      s.faultsChecked = true ∧ s.viewsChecked = true := by decide +kernel
  refine ⟨⟨by decide, by decide, ⟨by decide, by decide⟩, by decide⟩, by decide, fun s hs => ?_⟩
  exact ⟨(h s hs).1, (h s hs).2.1, faultsOk_of_checked (h s hs).2.2.1, viewsOk_of_checked (h s hs).2.2.2⟩

/-- As many outstanding writes and reads. -/
def outstanding (n : Nat) : State :=
  withPath running fun p =>
    { p with
      writes := (List.range n).map fun i => upW i (incr 5 0x070000000 1) .plain 1
      reads := (List.range n).map fun i => { tag := i, a := incr 5 0x070000000 1, cls := .plain, held := [], passed := 0 }
      nextTag := n }

/-- 15 and 16 outstanding writes. -/
theorem witness_FabricWritesAreAccepted :
    (incr 5 0x070000000 1).wellFormed = true ∧ (outstanding 15).path.writes.length < 16 ∧
      ¬(outstanding 16).path.writes.length < 16 := by decide

/-- The first and the last byte of each entry of the table of section 10.8, and TRANSPARENT; addresses that no entry
matches: one in no guard, one whose burst crosses 4 KiB, the first byte of a slot and that of the report area. -/
theorem witness_WriteClassesFollowTheTable :
    State.reset.attach.state ≠ .attached ∧ traffic.attach.state = .attached ∧ attached.attach.state = .attached ∧
      (∀ p ∈ [(0x040000000, 0), (0x0400FFFFF, 0), (0x050000000, 1), (0x0507FFFFF, 1), (0x050800000, 2), (0x050BFFFFF, 2),
          (0x051000000, 3), (0x051000FFF, 3)],
        (incr 5 (BitVec.ofNat 36 p.1) 1).wellFormed = true ∧
          ∃ r ∈ traffic.table[p.2]?.join, r.holds p.1 = true ∧
            ∀ j < p.2, ∀ r' ∈ traffic.table[j]?.join, r'.holds p.1 = false) ∧
      (∀ p ∈ [(0x070000000, false), (0x070000FF0, true), (0x020000000, false), (0x014000000, false)],
        (incr 5 (BitVec.ofNat 36 p.1) 2).wellFormed = true ∧ crosses4K (incr 5 (BitVec.ofNat 36 p.1) 2) = p.2 ∧
          ∀ r ∈ attached.table.filterMap id, r.holds p.1 = false) ∧
      ((attached.view .left).slots[0]?.map Slot.base = some 0x020000000 ∧ (attached.geometry .left).slotBytes = 65536 ∧
        attached.reportArea = 0x014000000) := by decide +kernel

/-- 15 and 16 outstanding reads, and an address of each treatment: plain, view and capture aperture; an address no entry
matches, and the last byte of each entry; the burst of section 4.9. -/
theorem witness_FabricReadsAreAccepted :
    (TagsOk (outstanding 15) ∧ TagsOk (outstanding 16) ∧ FaultsOk (outstanding 15) ∧
        (outstanding 15).path.reads.length < 16 ∧ ¬(outstanding 16).path.reads.length < 16 ∧
        (incr 5 0x012000000 1).wellFormed = true ∧ classifyRead (outstanding 15) (incr 5 0x070000000 1) = .plain ∧
        classifyRead (outstanding 15) (incr 5 0x012000000 1) = .view .left 0x012000000 false ∧
        classifyRead (outstanding 15) (incr 5 0x011000000 1) = .zeros) ∧
      (State.reset.attach.state ≠ .attached ∧ traffic.attach.state = .attached ∧
        (∀ r ∈ traffic.table.filterMap id, r.holds 0x070000000 = false) ∧
        ∀ p ∈ [(0x0400FFFFF, 0), (0x0507FFFFF, 1), (0x050BFFFFF, 2), (0x051000FFF, 3)],
          ∃ r ∈ traffic.table[p.2]?.join, r.holds p.1 = true ∧
            ∀ j < p.2, ∀ r' ∈ traffic.table[j]?.join, r'.holds p.1 = false) ∧
      (let g : Geometry := { w := 1280, h := 800, vw := 1024, vh := 720, bases := [] }
       0 < g.vw ∧ g.vw % 32 = 0 ∧ g.vw ≤ g.w ∧ g.w % 32 = 0 ∧ 128 % 8 = 0 ∧ 9728 % 16 = 0 ∧
          (0x060000000 : Addr).toNat % 4096 = 0) := by
  exact ⟨⟨tagsOk_of_checked (by decide), tagsOk_of_checked (by decide), faultsOk_of_checked (by decide +kernel),
    by decide +kernel⟩, by decide +kernel, by decide⟩

/-- A write of each class that delivers data: refused with one and with two beats left, capture, and plain with its
request granted. -/
def delivering : List State :=
  [refusing, withPath refusing fun p => { p with writes := [upW 3 (incr 5 0x013000000 2) (.refused .nothing) 2] },
    withPath refusing fun p => { p with writes := [upW 3 (incr 5 0x011000000 1) (.refused (.captureRefused .left 4 0)) 1] },
    burstWaits 0 0 4,
    withPath refusing fun p =>
      { p with
        writes := [upW 3 (incr 5 0x070000000 1) .plain 1]
        downW := [{ owner := .plain, tag := 3, upId := 5, a := incr 5 0x070000000 1, unsent := 1, buffer := [] }] }]

set_option maxRecDepth 20000 in
theorem witness_WriteDataIsPassedOrDiscarded :
    (∀ s ∈ delivering, (∃ u, s.path.dataOwner = some u) ∧ TagsOk s ∧ FaultsOk s ∧ StoreQueueOk s ∧
        ∀ d : DownWrite, s.path.dataHead = some d → d.buffer = []) ∧
      (plainAnswered .control 0).path.writes.map UpWrite.watch = [some (0x010000000, 32)] ∧
      attached.table[0]? = some (some ⟨.control, 0x010000000, 12⟩) ∧
      Region.holds ⟨.control, 0x010000000, 12⟩ 0x010000000 = true := by
  have h : ∀ s ∈ delivering, s.path.dataOwner.isSome = true ∧ s.tagsChecked = true ∧ s.faultsChecked = true ∧
      s.storeChecked = true ∧ ∀ d ∈ s.path.dataHead, d.buffer = [] := by decide +kernel
  exact ⟨fun s hs => ⟨Option.isSome_iff_exists.1 (h s hs).1, tagsOk_of_checked (h s hs).2.1,
    faultsOk_of_checked (h s hs).2.2.1, storeQueueOk_of_checked (h s hs).2.2.2.1, (h s hs).2.2.2.2⟩, rfl, rfl, by decide⟩

/-- A run from the start, and none behind the fill point of a full frame. -/
theorem witness_CaptureBurstOpensAndIssuesRun :
    ∀ p ∈ [(0, 0), (131072, 0), (0, 131040)],
      (burstWaits p.1 p.2 2).path.dataOwner = some (capturing p.2 2 2) ∧
        (capturing p.2 2 2).cls = .capture .left 0x011000000 false ∧ (capturing p.2 2 2).left = (capturing p.2 2 2).a.len ∧
        1 < (capturing p.2 2 2).a.len ∧ ((burstWaits p.1 p.2 2).view .left).live = true ∧
        ((burstWaits p.1 p.2 2).view .left).capture = .slotted 2 ∧
        ((burstWaits p.1 p.2 2).view .left).slots[2]? = some (fillingSlot 0x020020000 12 p.1) := by decide +kernel

/-- A burst that waits for its first beat: bound as stopped, unframed, unslotted, to a slot with a run and to one whose
frame is full. -/
def opening : List State :=
  let waits (s : State) : State :=
    withPath s fun p => { p with writes := [capturing 0 4 4], nextTag := 8 }
  [waits attached, waits running, waits (withLeft running fun x => { x with capture := .unslotted none }),
    burstWaits 0 0 4, burstWaits 131072 0 4]

/-- Its four beats in turn: the frame's first, one that completes a memory beat, one that skips a beat, and the last;
and a burst of one beat. -/
def developing : List (State × UpWrite) :=
  let at_ (fill left : Nat) (b : OpenBurst) : State × UpWrite :=
    (withPath (burstOpen fill b) fun p => { p with writes := [capturing 0 4 left] }, capturing 0 4 left)
  let b (o : Nat) (half : Option (Option (BitVec 64))) : OpenBurst :=
    { openAt o (.slot 2 12) (some (0, 48)) none with half := half }
  [(burstWaits 0 0 4, capturing 0 4 4), at_ 16 3 (b 16 (some (some 5))), at_ 16 2 (b 32 none),
    at_ 48 1 (b 48 (some none)), (burstWaits 0 0 1, capturing 0 1 1)]

set_option maxRecDepth 20000 in
theorem witness_CaptureBeatInRunIsDeveloped :
    (((opening.getD 0 State.reset).view .left).state = .stopped ∧
        ((opening.getD 1 State.reset).view .left).capture = .none ∧
        ((opening.getD 2 State.reset).view .left).capture = .unslotted none) ∧
      (∀ i ∈ [3, 4], ∃ sl f, ((opening.getD i State.reset).view .left).slots[2]? = some sl ∧ sl.state = .filling ∧
        sl.frame = some f) ∧
      ∀ p ∈ developing, TagsOk p.1 ∧ FaultsOk p.1 ∧ p.1.path.dataOwner = some p.2 ∧
        p.2.cls = .capture .left 0x011000000 false ∧ (p.1.view .left).live = true ∧
        let s1 := if p.2.left = p.2.a.len then p.1.openBurst .left p.2 0x011000000 false else p.1
        ∃ b f r, (s1.view .left).burst = some b ∧ b.binding = .slot 2 12 ∧ b.cut = none ∧
          (p.2.left = p.2.a.len → p.2.a.addr.toNat % 16 = 0) ∧ (s1.view .left).fillingWith 2 12 = some f ∧
          b.run = some r ∧ r.1 ≤ b.nextOffset ∧ b.nextOffset ≤ r.2 := by
  refine ⟨by decide +kernel, fun i hi => ?_, fun p hp => ?_⟩
  · simp only [List.mem_cons, List.not_mem_nil, or_false] at hi
    rcases hi with rfl | rfl <;> exact ⟨_, _, rfl, rfl, rfl⟩
  · simp only [developing, List.mem_cons, List.not_mem_nil, or_false] at hp
    rcases hp with rfl | rfl | rfl | rfl | rfl <;>
      exact ⟨tagsOk_of_checked (by decide +kernel), faultsOk_of_checked (by decide +kernel), rfl, rfl, rfl, _, _, _, rfl,
        rfl, rfl, by decide, rfl, rfl, by decide, by decide⟩

/-- Each binding; a beat just before and just after the run; a cut burst; and a frame settled meanwhile. -/
def dropping : List OpenBurst :=
  [openAt 16 .unframed none none, openAt 16 (.unslotted none) none none, openAt 16 .stopped none none,
    openAt 16 (.slot 2 12) (some (32, 48)) none, openAt 64 (.slot 2 12) (some (32, 48)) none,
    openAt 32 (.slot 2 12) (some (32, 48)) (some 16), openAt 32 (.slot 2 9) (some (32, 48)) none]

/-- A development write answered while as many beats of its capture burst are still to come. -/
def devLeft (n : Nat) : State := withPath (devAnswered 64 id) fun p => { p with writes := [capturing 0 4 n] }

/-- Those beats with 3 and with 1 of the burst left; openings bound to no slot, of a STOPPED view and with a partial
first beat. -/
def undeveloped : List (State × UpWrite × Strobes) :=
  (dropping.flatMap fun b => [3, 1].map fun n =>
      (withPath (burstOpen 32 b) fun p => { p with writes := [capturing 0 4 n] }, capturing 0 4 n, 0xFFFF)) ++
    (opening.take 3).map (fun s => (s, capturing 0 4 4, 0xFFFF)) ++ [(burstWaits 0 0 4, capturing 0 4 4, 1)]

set_option maxRecDepth 20000 in
theorem witness_CaptureBeatOutsideRunIsDropped :
    (∀ q ∈ undeveloped, TagsOk q.1 ∧ FaultsOk q.1 ∧ q.1.path.dataOwner = some q.2.1 ∧
      q.2.1.cls = .capture .left 0x011000000 false ∧
      let s1 := if q.2.1.left = q.2.1.a.len then q.1.openBurst .left q.2.1 0x011000000 false else q.1
      ∃ b, (s1.view .left).burst = some b ∧
        (match b.binding with
        | .slot i n =>
          (b.cut.or (if q.2.2 == BitVec.allOnes 16 then none else some b.nextOffset)).isNone &&
            (b.run.any fun r => decide (r.1 ≤ b.nextOffset) && decide (b.nextOffset ≤ r.2)) &&
            ((s1.view .left).fillingWith i n).isSome
        | _ => false) = false) ∧
      (∀ u ∈ (sinceDetach (burstOpen 32 (openAt 64 (.slot 2 12) (some (32, 48)) none))).path.dataOwner,
        u.cls = .capture .left 0x011000000 true ∧ u.left = 3) ∧
      ∀ n ∈ [0, 1], TagsOk (devLeft n) ∧
        ∃ d u, (devLeft n).path.answeredWrite (viewBusId .left) = some d ∧ d.owner = .dev .left 2 12 ∧
          (devLeft n).path.writeOf d.tag = some u ∧ u.left = n := by
  have h : ∀ q ∈ undeveloped, q.1.tagsChecked = true ∧ q.1.faultsChecked = true ∧ q.1.path.dataOwner = some q.2.1 ∧
      q.2.1.cls = .capture .left 0x011000000 false ∧
      ∃ b ∈ ((if q.2.1.left = q.2.1.a.len then q.1.openBurst .left q.2.1 0x011000000 false else q.1).view .left).burst,
        (match b.binding with
        | .slot i n =>
          (b.cut.or (if q.2.2 == BitVec.allOnes 16 then none else some b.nextOffset)).isNone &&
            (b.run.any fun r => decide (r.1 ≤ b.nextOffset) && decide (b.nextOffset ≤ r.2)) &&
            (((if q.2.1.left = q.2.1.a.len then q.1.openBurst .left q.2.1 0x011000000 false else q.1).view
              .left).fillingWith i n).isSome
        | _ => false) = false := by decide +kernel
  refine ⟨fun q hq => ?_, by decide, fun n hn => ?_⟩
  · obtain ⟨ht, hf, ho, hc, b, hb, hd⟩ := h q hq
    exact ⟨tagsOk_of_checked ht, faultsOk_of_checked hf, ho, hc, b, hb, hd⟩
  · simp only [List.mem_cons, List.not_mem_nil, or_false] at hn
    rcases hn with rfl | rfl <;> exact ⟨tagsOk_of_checked (by decide), _, _, rfl, rfl, rfl, rfl⟩

/-- The pixel of section 2.6. -/
theorem witness_MergeBlendsExposures :
    (3000 : Nat) ≤ 4095 ∧ (200 : Nat) ≤ 4095 ∧ (frame 0 0).snapshot.black ≤ 255 ∧ (frame 0 0).snapshot.ratio = 16 ∧
      1024 ≤ (frame 0 0).snapshot.knee ∧ (frame 0 0).snapshot.knee ≤ 3839 := by decide

/-- The merged value of section 2.6, and the greatest. -/
theorem witness_ToneMapInterpolatesCurve :
    (frame 0 0).snapshot.curve.length = 65 ∧ (∀ y ∈ (frame 0 0).snapshot.curve, y ≤ 255) ∧
      (frame 0 0).snapshot.shift ≤ 5 ∧ (2390 : Nat) ≤ 131040 ∧ (131040 : Nat) ≤ 131040 ∧
      (frame 0 0).snapshot.curve[4]? = some 72 ∧ (frame 0 0).snapshot.curve[5]? = some 88 ∧
      (frame 0 0).snapshot.curve[63]? = some 255 ∧ (frame 0 0).snapshot.curve[64]? = some 255 := by decide

/-- The counts 7 and 8 of section 10.9 with a forwarded write that nothing earlier holds back, a channel with nothing
forwarded, and the CONTROL entry of the running table. -/
theorem witness_ArbiterGrantsRequests :
    (∃ r, (contending 7).path.own.find? (fun r => decide (r.src = .fetch ↔ Channel.write = .read)) = some r) ∧
      (∃ d ∈ (contending 7).path.readyW,
        ∀ u ∈ (contending 7).path.writes.takeWhile (fun u => u.tag != d.tag), u.a.id ≠ d.upId) ∧
      (contending 7).path.countW < 8 ∧ 8 ≤ (contending 8).path.countW ∧ (contending 8).path.readyR = [] ∧
      ∃ r : Region, running.table[0]? = some (some r) ∧ r.kind = .control := by
  exact ⟨⟨_, rfl⟩, by decide, by decide, by decide, by decide, _, rfl, rfl⟩

/-- A full and a partly filled frame. -/
theorem witness_DevelopmentResponsesAreCounted :
    ∀ n ∈ [64, 131072], Resp.okay ≠ .exokay ∧ FaultsOk (devAnswered n id) ∧
      ∃ d, (devAnswered n id).path.answeredWrite (viewBusId .left) = some d ∧ d.owner = .dev .left 2 12 := by
  have h : ∀ n ∈ [64, 131072], (devAnswered n id).faultsChecked = true := by decide +kernel
  intro n hn
  refine ⟨by decide, faultsOk_of_checked (h n hn), _, rfl, rfl⟩

set_option maxRecDepth 20000 in
/-- A gap-free and a gapped frame; an entry of a running and of a STOPPED view, of the part, and of a DISABLED store. -/
theorem witness_ReadyFrameIsEvaluated :
    (∀ g ∈ [false, true],
      let s := devAnswered 131072 fun f => { f with gap := g }
      Resp.okay ≠ .exokay ∧ FaultsOk s ∧ BlankingOk s ∧ (s.view .left).live = true ∧
        ∃ d f, s.path.answeredWrite (viewBusId .left) = some d ∧ d.owner = .dev .left 2 12 ∧
          (s.view .left).fillingWith 2 12 = some f ∧
          f.fillPoint = (s.geometry .left).w * (s.geometry .left).h * 4 ∧ f.writes ≤ 1 ∧ f.gap = g) ∧
      (isMuted 1 running ∧ ¬isMuted 0 running ∧ ¬isMuted 25 running ∧ running.faults.length = 26) ∧
      ∀ d ∈ [false, true], ((withStore running fun h => { h with disabled := d }).history.disabled = true →
        (withStore running fun h => { h with disabled := d }).history.queue = []) := by
  refine ⟨fun g hg => ?_, ⟨⟨.right, by decide, by decide⟩, ?_, ?_, by decide⟩, fun d _ _ => rfl⟩
  · simp only [List.mem_cons, List.not_mem_nil, or_false] at hg
    rcases hg with rfl | rfl <;>
      exact ⟨by decide, faultsOk_of_checked (by decide +kernel), blankingOk_of_checked (by decide +kernel), by decide, _, _,
        rfl, rfl, rfl, by decide, by decide, rfl⟩
  · rintro ⟨v, hv, hs⟩; cases v <;> revert hv hs <;> decide
  · rintro ⟨v, hv, _⟩; cases v <;> revert hv <;> decide

/-- The last piece of a read, and one before it. -/
theorem witness_ReadPiecesAreHeld :
    (Instr.readPieceReturn .left [⟨1, .okay⟩]).wellFormed = true ∧
      ∀ n ∈ [1, 2], FaultsOk (viewRead [] n) ∧ TagsOk (viewRead [] n) ∧
        ∃ d u rec, (viewRead [] n).path.answeredRead (viewBusId .left) = some d ∧ d.owner = .piece .left ∧
          d.unreturned = 1 ∧ u ∈ (viewRead [] n).path.reads ∧ u.tag = d.tag ∧ u.cls = .view rec ∧ rec.view = .left ∧
          rec.outstanding = n := by
  refine ⟨by decide, fun n hn => ?_⟩
  simp only [List.mem_cons, List.not_mem_nil, or_false] at hn
  rcases hn with rfl | rfl <;>
    exact ⟨faultsOk_of_checked (by decide +kernel), tagsOk_of_checked (by decide),
      _, _, _, rfl, rfl, rfl, List.mem_singleton.2 rfl, rfl, rfl, rfl, rfl⟩

/-- A read that is ready, and one with a piece outstanding. -/
theorem witness_ViewReadsAreReleased :
    ∀ n ∈ [0, 1], ∃ u r, (viewRead [0x77] n).path.firstRead 5 = some u ∧ u.cls = .view r ∧ r.outstanding = n := by
  intro n hn
  exact ⟨_, _, rfl, rfl, rfl⟩

/-- A BLANKED view under an ACTIVE entry with a read to release. -/
def unsafeRead : State :=
  withFault (withLeft (viewRead [0x77] 0) fun x => { x with state := .blanked }) 0 fun e => { e with state := .active }

theorem witness_UnsafeViewsReturnOnlyThePattern :
    BlankingOk unsafeRead ∧ unsafeRead.safetyActive .left = true ∧
      ∃ u r t, unsafeRead.path.firstRead 5 = some u ∧ u.cls = .view r ∧ r.view = .left ∧
        exec (.viewReadRelease 5) unsafeRead = .next t ∧
        t.out = [.upData 5 [⟨0x80108010801080108010801080108010, .okay⟩]] := by
  exact ⟨blankingOk_of_checked (by decide +kernel), by decide, _, _, _, rfl, rfl, rfl, rfl, rfl⟩

/-- The ends of the ranges of the protect level and the gain. -/
theorem witness_DimmedLumaIsBounded :
    ∀ p ∈ [128, 254], ∀ g ∈ [64, 256], 128 ≤ p ∧ p ≤ 254 ∧ 64 ≤ g ∧ g ≤ 256 := by decide

theorem witness_ChromaIsDimmedWithTheLuma :
    ∀ p ∈ [128, 254], ∀ g ∈ [64, 256], 128 ≤ p ∧ p ≤ 254 ∧ 64 ≤ g ∧ g ≤ 256 := by decide

theorem witness_PlainAnswersPassUnchanged :
    TagsOk (plainAnswered .control 0xFFFFFFFF) ∧
      (∃ d u, (plainAnswered .control 0xFFFFFFFF).path.answeredWrite 5 = some d ∧ d.owner = .plain ∧
        (plainAnswered .control 0xFFFFFFFF).path.writeOf d.tag = some u) ∧
      ∀ l ∈ [[], [(⟨7, .okay⟩ : RBeat)]],
        let s := withPath (plainAnswered .control 0) fun p => { p with reads := p.reads.map fun u => { u with held := l } }
        TagsOk s ∧ ∃ d u, s.path.answeredRead 6 = some d ∧ d.owner = .plain ∧ s.path.readOf d.tag = some u ∧ u.held = l := by
  exact ⟨tagsOk_of_checked (by decide), ⟨_, _, rfl, rfl, rfl⟩,
    fun l hl => by
      simp only [List.mem_cons, List.not_mem_nil, or_false] at hl
      rcases hl with rfl | rfl <;> exact ⟨tagsOk_of_checked (by decide), _, _, rfl, rfl, rfl, rfl⟩⟩

theorem witness_HeldResponsesAreReturnedInOrder : TagsOk (heldBack (some .okay)) ∧ TagsOk (heldBack none) :=
  ⟨tagsOk_of_checked (by decide), tagsOk_of_checked (by decide)⟩

/-- No command in hand, and another one. -/
theorem witness_OnlyTheCommandInHandIsCarriedOut :
    (isCommand .detach = true ∧ ∀ h : Handover, (hand running 2 0).attach.inHand = some h → h.record.command ≠ .detach) ∧
      InHand (.unknownCommandCode 0) (hand running 0 0) (handover 41 0 0) ∧
      InHand (.unknownCommandCode 13) (hand running 13 0) (handover 41 13 0) ∧
      InHand (.releasePin 2) (hand running 6 2) (handover 41 6 2) := by
  refine ⟨⟨by decide, fun h hh => ?_⟩, ⟨rfl, rfl⟩, ⟨rfl, rfl⟩, rfl, rfl⟩
  cases hh
  decide

/-- A part with a copy to hand over. -/
def handing (s : State) (h : Handover) : State := s.setAttach { s.attach with handovers := [h] }

/-- TRANSPARENT; an issue number of 0 and the last one; DETACH; a command while one is in flight, and a command. -/
theorem witness_CommandRecordsAreHandedOver :
    ∀ s ∈ [handing State.reset (handover 41 2 0), handing running (handover 0 2 0), handing running (handover 40 2 0),
        handing running (handover 41 12 0), handing running (handover 41 2 0),
        handing (running.setAttach { running.attach with inFlight := some (.copyHistory, 40) }) (handover 41 2 0)],
      TagsOk s ∧ s.attach.inHand = none ∧ ∃ h, s.attach.handovers = h :: [] := by
  intro s hs
  simp only [List.mem_cons, List.not_mem_nil, or_false] at hs
  rcases hs with rfl | rfl | rfl | rfl | rfl | rfl <;> exact ⟨tagsOk_of_checked (by decide), rfl, _, rfl⟩

/-- The view fields 0, 1 and 2, and a STOPPED view. -/
theorem witness_StartViewStartsStoppedViews :
    (∀ b ∈ [0, 1, 2], InHand (.startView b) (hand running 2 (b.setWidth 64)) (handover 41 2 (b.setWidth 64))) ∧
      (0 : Byte) = viewByte .left ∧ (1 : Byte) = viewByte .right ∧ ((hand running 2 1).view .right).state = .stopped := by
  refine ⟨fun b hb => ?_, by decide, by decide, by decide⟩
  simp only [List.mem_cons, List.not_mem_nil, or_false] at hb
  rcases hb with rfl | rfl | rfl <;> exact ⟨rfl, rfl⟩

theorem witness_StopViewStopsTheView :
    (∀ b ∈ [0, 1, 2], InHand (.stopView b) (hand running 3 (b.setWidth 64)) (handover 41 3 (b.setWidth 64))) ∧
      ((hand running 3 0).view .left).state ≠ .stopped ∧ ((hand running 3 0).view .right).state = .stopped := by
  refine ⟨fun b hb => ?_, by decide, by decide⟩
  simp only [List.mem_cons, List.not_mem_nil, or_false] at hb
  rcases hb with rfl | rfl | rfl <;> exact ⟨rfl, rfl⟩

theorem witness_SetPanSetsTheTarget :
    (∀ b ∈ [0, 1, 2], InHand (.setPan b 0 0) (hand running 4 (b.setWidth 64)) (handover 41 4 (b.setWidth 64))) ∧
      ((hand running 4 0).view .left).state ≠ .stopped ∧ ((hand running 4 0).view .right).state = .stopped := by
  refine ⟨fun b hb => ?_, by decide, by decide⟩
  simp only [List.mem_cons, List.not_mem_nil, or_false] at hb
  rcases hb with rfl | rfl | rfl <;> exact ⟨rfl, rfl⟩

/-- A SHOWN slot, the same with the request, and no SHOWN slot (RIGHT). -/
theorem witness_PinFrameRequestsThePin :
    (∀ b ∈ [0, 1, 2], InHand (.pinFrame b) (hand running 5 (b.setWidth 64)) (handover 41 5 (b.setWidth 64))) ∧
      (running.view .left).shown = some 0 ∧
      (∀ sl ∈ (running.view .left).slots, ¬(sl.state = .pinned ∨ (sl.state = .shown ∧ sl.pinRequest = true))) ∧
      (running.view .right).shown = none ∧
      (∀ sl ∈ (running.view .right).slots, ¬(sl.state = .pinned ∨ (sl.state = .shown ∧ sl.pinRequest = true))) ∧
      ∃ sl ∈ ((withLeft running fun x => x.modifySlot 2 fun _ => fullSlot .pinned 0x020020000 9 0).view .left).slots,
        sl.state = .pinned := by
  refine ⟨fun b hb => ?_, by decide, by decide, by decide, by decide, by decide⟩
  simp only [List.mem_cons, List.not_mem_nil, or_false] at hb
  rcases hb with rfl | rfl | rfl <;> exact ⟨rfl, rfl⟩

/-- A PINNED slot without and with a read, a requested SHOWN slot, and neither. -/
def pinning : List State :=
  [withLeft running fun x => x.modifySlot 2 fun _ => fullSlot .pinned 0x020020000 9 0,
    withLeft running fun x => x.modifySlot 2 fun _ => fullSlot .pinned 0x020020000 9 1,
    withLeft running fun x => x.modifySlot 0 fun sl => { sl with pinRequest := true }, running]

set_option maxRecDepth 20000 in
theorem witness_ReleasePinReleasesThePin :
    ∀ s ∈ pinning, InHand (.releasePin 0) (hand s 6 0) (handover 41 6 0) ∧ (0 : Byte) = viewByte .left ∧
      ViewOk ((hand s 6 0).view .left) := by
  have h : ∀ s ∈ pinning, (((hand s 6 0).view .left)).checked = true := by decide +kernel
  exact fun s hs => ⟨⟨rfl, rfl⟩, by decide, viewOk_of_checked (h s hs)⟩

/-- The counts consume, produce and one above produce. -/
theorem witness_AckReportsMovesTheConsumeIndex :
    (∀ n ∈ [0, 3, 4], InHand (.ackReports n) (hand reported 7 (n.setWidth 64)) (handover 41 7 (n.setWidth 64))) ∧
      ((3 : BitVec 32) - (hand reported 7 3).report.consume).toNat ≤ 3 ∧
      ¬((4 : BitVec 32) - (hand reported 7 4).report.consume).toNat ≤ 3 := by
  refine ⟨fun n hn => ?_, by decide, by decide⟩
  simp only [List.mem_cons, List.not_mem_nil, or_false] at hn
  rcases hn with rfl | rfl | rfl <;> exact ⟨rfl, rfl⟩

/-- The entry states, and the indices 25 and 26. -/
theorem witness_ClearFaultClearsRecoveredEntries :
    (∀ st ∈ [FaultState.clear, .suspect, .active, .recovered],
      InHand (.clearFault 0) (hand (withFault running 0 fun e => { e with state := st }) 8 0) (handover 41 8 0) ∧
        FaultsOk (hand (withFault running 0 fun e => { e with state := st }) 8 0)) ∧
      InHand (.clearFault 25) (hand running 8 25) (handover 41 8 25) ∧
      InHand (.clearFault 26) (hand running 8 26) (handover 41 8 26) ∧ FaultsOk (hand running 8 26) := by
  have h : ∀ st ∈ [FaultState.clear, .suspect, .active, .recovered],
      (hand (withFault running 0 fun e => { e with state := st }) 8 0).faultsChecked = true := by decide +kernel
  exact ⟨fun st hs => ⟨⟨rfl, rfl⟩, faultsOk_of_checked (h st hs)⟩, ⟨rfl, rfl⟩, ⟨rfl, rfl⟩,
    faultsOk_of_checked (by decide +kernel)⟩

/-- Each mode code, RELEASE with and without a hold, and 4. -/
theorem witness_HoldModeHoldsTheMode :
    (∀ m ∈ [0, 1, 2, 3, 4], InHand (.holdMode m) (hand running 9 (m.setWidth 64)) (handover 41 9 (m.setWidth 64))) ∧
      (hand running 9 3).ladder.hold = none ∧
      InHand (.holdMode 3) (hand (running.setLadder ⟨.night, some .night, none⟩) 9 3) (handover 41 9 3) := by
  refine ⟨fun m hm => ?_, by decide, rfl, rfl⟩
  simp only [List.mem_cons, List.not_mem_nil, or_false] at hm
  rcases hm with rfl | rfl | rfl | rfl | rfl <;> exact ⟨rfl, rfl⟩

/-- The addresses 0, 4,095 and 4,096. -/
theorem witness_ApplySettingsRequestsTheFetch :
    ∀ a ∈ [0, 4095, 4096], InHand (.applySettings a) (hand running 1 a) (handover 41 1 a) ∧
      (hand running 1 a).ownQueued .fetch = false ∧ ∀ b, .fetch b ∉ (hand running 1 a).attach.wanted := by
  intro a ha
  exact ⟨⟨rfl, rfl⟩, rfl, fun b => List.not_mem_nil⟩

/-- The sectors 7 and 8; a destination just after the report area and one at its end; a sector being erased, and another
sector's erase with 15 and with 16 suspensions and frozen, with a request that waits. -/
theorem witness_CopyHistoryAsksForTheArray :
    (∀ p ∈ [((7 : Byte), (0x014001000 : BitVec 64)), (8, 0x014001000), (7, 0x014000C00)],
      InHand (.copyHistory p.1 p.2) (copyHand p.1 p.2) ⟨0, ⟨41, 10, p.1.setWidth 64, p.2⟩⟩ ∧
        SlotAreasOk (copyHand p.1 p.2)) ∧
      (copyHand 7 0x014001000).copyForbidden 0x014001000 = false ∧
      (copyHand 7 0x014000C00).copyForbidden 0x014000C00 = true ∧
      (∃ e, (withStore (copyHand 7 0x014001000) fun h => { h with erase := some ⟨7, 9, 0, .running, false⟩ }).history.erase =
        some e ∧ e.sector = 7) ∧
      ∀ e ∈ [(⟨6, 9, 15, .running, false⟩ : Erase), ⟨6, 0, 16, .running, false⟩, ⟨6, 9, 2, .frozen, false⟩],
        let s := withStore (copyHand 7 0x014001000) fun h => { h with erase := some e, waiting := [.record] }
        InHand (.copyHistory 7 0x014001000) s ⟨0, ⟨41, 10, 7, 0x014001000⟩⟩ ∧ SlotAreasOk s ∧ e.sector ≠ 7 ∧
          s.history.clearing = none := by
  have areas : SlotAreasOk (copyHand 7 0x014001000) := fun v _ => by cases v <;> decide
  refine ⟨fun p hp => ?_, by decide +kernel, by decide +kernel, ⟨_, rfl, rfl⟩, fun e he =>
    ⟨⟨rfl, rfl⟩, areas, by revert e; decide, rfl⟩⟩
  simp only [List.mem_cons, List.not_mem_nil, or_false] at hp
  rcases hp with rfl | rfl | rfl <;> exact ⟨⟨rfl, rfl⟩, fun v _ => by cases v <;> decide⟩

/-- A wrong confirmation; the lock; a scan; DISABLED; a program in progress; something and nothing left to erase. -/
theorem witness_ClearHistoryStartsTheClearing :
    InHand (.clearHistory 0) (hand running 11 0) (handover 41 11 0) ∧
      ∀ f ∈ [id, fun (h : History) => { h with lock := true }, fun h => { h with scanning := true },
          fun h => { h with disabled := true }, fun h => { h with op := some (.header 1 .full 5) },
          fun h => { h with known := List.replicate 8 .full }],
        InHand (.clearHistory 0xFFFFFFD6) (withStore (hand running 11 0xFFFFFFD6) f) (handover 41 11 0xFFFFFFD6) ∧
          ¬(0xFFFFFFD6 : BitVec 32) ≠ ~~~41 :=
  ⟨⟨rfl, rfl⟩, fun _ _ => ⟨⟨rfl, rfl⟩, by decide⟩⟩

/-- A copy being read over a frozen erase, with a request that waits behind it. -/
def reading (clearing : Option ClearPhase) : State :=
  storing fun h =>
    { h with op := some (.copy 3), erase := some ⟨6, 400, 2, .frozen, false⟩, waiting := [.record], clearing := clearing }

/-- With own requests queued, with a capture burst that has not opened, and with a copy being read. -/
theorem witness_DetachLeavesTheFabricAlone :
    ∀ s ∈ [contending 0, burstWaits 0 0 4, reading none, reading (some .waiting)],
      InHand .detach (hand s 12 0) (handover 41 12 0) ∧ TagsOk (hand s 12 0) := by
  intro s hs
  simp only [List.mem_cons, List.not_mem_nil, or_false] at hs
  rcases hs with rfl | rfl | rfl | rfl <;> exact ⟨⟨rfl, rfl⟩, tagsOk_of_checked (by decide)⟩

/-- No copy, a copy that passes and one that does not. -/
theorem witness_AnchorRecordsAreExamined :
    State.reset.ownQueued .fetch = false ∧ (∀ b, .fetch b ∉ State.reset.attach.wanted) ∧
      State.reset.attach.anchorCopies = [] ∧ (examining 0).ownQueued .fetch = false ∧
      (∀ b, .fetch b ∉ (examining 0).attach.wanted) ∧ (examining 0).attach.anchorCopies = [anchor 0] ∧
      (examining 0xFFFEAFFF).attach.anchorCopies = [anchor 0xFFFEAFFF] ∧
      ((anchor 0xFFFEAFFF).extractLsb' 64 32).toNat = 2 ^ 32 - 1 - 0x15000 :=
  ⟨rfl, fun _ => List.not_mem_nil, rfl, rfl, fun _ => List.not_mem_nil, rfl, rfl, by decide⟩

set_option maxRecDepth 20000 in
/-- A block in error, a rejected and a valid one; and a fetch that a DETACH has voided, with the fetch of a new attach due. -/
theorem witness_FetchReturnDecidesTheAttach :
    (∀ b ∈ [badBlock .slverr, badBlock .okay, goodBeats], (Instr.settingsFetchReturn b).wellFormed = true) ∧
      FaultsOk (fetching State.reset .attaching) ∧ StoreQueueOk (fetching State.reset .attaching) ∧
      ∃ d, (fetching State.reset .attaching).path.answeredRead 0x3D = some d ∧ d.owner = .own ∧ d.unreturned = 64 ∧
        (fetching State.reset .attaching).attach.state = .attaching ∧
        (fetching State.reset .attaching).attach.request = some { item := .fetch d.a.addr, void := false } ∧
        (fetching State.reset .attaching).attach.wanted = [] ∧
        (fetching State.reset .attaching).ownQueued .anchorResult = false ∧
        FaultsOk (voided .transparent) ∧ StoreQueueOk (voided .transparent) ∧
        (voided .attaching).path.answeredRead 0x3D = some d ∧ (∀ r, (voided .attaching).attach.request = some r → r.void = true) ∧
        (voided .attaching).attach.wanted = [.fetch 0x16000] :=
  ⟨by decide +kernel, faultsOk_of_checked (by decide +kernel), storeQueueOk_of_checked (by decide), _, rfl, rfl, rfl, rfl,
    rfl, rfl, rfl, faultsOk_of_checked (by decide +kernel), storeQueueOk_of_checked (by decide), rfl,
    by rintro r ⟨⟩; rfl, rfl⟩

/-- An apply whose fetch has been granted, over given settings, in a view state. -/
def applyingOver (c : Settings) (st : ViewState) : State :=
  withLeft
    (fetching
      (attached.setAttach
        { attached.attach with
          inFlight := some (.applySettings, 41)
          current := some c }) .attached)
    fun x => { x with state := st }

/-- The settings in force are those of the block. -/
def applying (st : ViewState) : State := applyingOver (blockSettings goodBlock) st

set_option maxRecDepth 20000 in
/-- The same blocks; against the table of `applying` the valid one changes nothing, against another it does. -/
theorem witness_FetchReturnDecidesTheApply :
    (∀ b ∈ [badBlock .slverr, badBlock .okay, goodBeats], (Instr.settingsFetchReturn b).wellFormed = true) ∧
      (∀ st ∈ [ViewState.stopped, .running], FaultsOk (applying st) ∧ StoreQueueOk (applying st) ∧
        ∃ d r, (applying st).path.answeredRead 0x3D = some d ∧ d.owner = .own ∧ d.unreturned = 64 ∧
          (applying st).attach.state = .attached ∧ (applying st).attach.inFlight = some (.applySettings, 41) ∧
          (applying st).attach.request = some r ∧ r.void = false ∧
          (applying st).attach.current = some (blockSettings goodBlock)) ∧
      (blockSettings goodBlock).table.length = 8 ∧ cfg.table.length = 8 ∧
      ((applyingOver cfg .running).attach.current = some cfg ∧ ((applyingOver cfg .running).view .left).state = .running ∧
        cfg.table[0]? = (blockSettings goodBlock).table[0]? ∧ cfg.table[1]? ≠ (blockSettings goodBlock).table[1]?) := by
  have h : ∀ st ∈ [ViewState.stopped, .running], (applying st).faultsChecked = true ∧ (applying st).storeChecked = true := by
    decide +kernel
  exact ⟨by decide +kernel,
    fun st hs => ⟨faultsOk_of_checked (h st hs).1, storeQueueOk_of_checked (h st hs).2, _, _, rfl, rfl, rfl, rfl, rfl,
      rfl, rfl, rfl⟩, by decide +kernel, by decide, rfl, rfl, by decide +kernel, by decide +kernel⟩

theorem witness_UnitWritesAreAnswered :
    ∀ p ∈ [(OwnSource.anchorResult, UnitItem.anchorResult), (.immediateResult, .immediate), (.completionResult, .completion)],
      FaultsOk (awaiting running p.1 p.2) ∧ StoreQueueOk (awaiting running p.1 p.2) ∧
        ∃ d, (awaiting running p.1 p.2).ownAnswered p.1 = some d := by
  intro p hp
  simp only [List.mem_cons, List.not_mem_nil, or_false] at hp
  rcases hp with rfl | rfl | rfl <;>
    exact ⟨faultsOk_of_checked (by decide +kernel), storeQueueOk_of_checked (by decide), _, rfl⟩

/-- A record to issue with 63 unacknowledged, none with 64; and one to answer. -/
theorem witness_RecordsAreIssuedAndCompleted :
    (FaultsOk unreported ∧ StoreQueueOk unreported ∧ unreported.attach.state = .attached ∧
        unreported.report.backlog = 4 :: [] ∧ unacknowledged unreported < 64 ∧ unreported.report.flight = none ∧
        unreported.report.held = false) ∧
      unacknowledged (unreported.setReport { unreported.report with consume := 2 }) = 63 ∧
      unacknowledged (unreported.setReport { unreported.report with consume := 1 }) = 64 ∧
      FaultsOk recordAnswered ∧ StoreQueueOk recordAnswered ∧
      (∃ d f, recordAnswered.ownAnswered .record = some d ∧ recordAnswered.report.flight = some f ∧ f.entry < 26) ∧
      (unreported.fault 25).occurrences ≤ 65535 ∧ (unreported.fault 25).superseded ≤ 255 := by
  exact ⟨⟨faultsOk_of_checked (by decide +kernel), storeQueueOk_of_checked (by decide), by decide, by decide, by decide,
    by decide, by decide⟩, by decide, by decide, faultsOk_of_checked (by decide +kernel),
    storeQueueOk_of_checked (by decide), ⟨_, _, rfl, rfl, by decide⟩, by decide, by decide⟩

theorem witness_StatusWritesAreIssuedAndAnswered :
    (FaultsOk statusDue ∧ StoreQueueOk statusDue ∧ statusDue.attach.state = .attached ∧
        statusDue.report.status.due = true ∧ statusDue.report.status.flight = none ∧
        statusDue.report.status.suspended = false ∧ statusDue.report.status.holdoff = 0) ∧
      FaultsOk statusAnswered ∧ StoreQueueOk statusAnswered ∧
      (∃ d f, statusAnswered.ownAnswered .status = some d ∧ statusAnswered.report.status.flight = some f) ∧
      running.status.faultCodes.length = 26 ∧ ∀ c ∈ running.status.faultCodes, c < 256 := by
  exact ⟨⟨faultsOk_of_checked (by decide +kernel), storeQueueOk_of_checked (by decide), by decide, by decide, by decide,
    by decide, by decide⟩, faultsOk_of_checked (by decide +kernel), storeQueueOk_of_checked (by decide),
    ⟨_, _, rfl, rfl⟩, by decide, by decide⟩

/-- A request to serve at position 63, with and without an erase, and behind a copy that waits; a full sector; a program at
its end, its first and its second try, over an erase frozen for the second and for the 16th time; and one for which a
CLEAR_HISTORY waits, with a sector left to erase, with none left, and over a frozen erase. -/
theorem witness_StoreRequestsAreServed :
    (∀ f ∈ [fun (h : History) => { h with nextPosition := 63 }, fun h => { h with erase := some ⟨6, 5, 0, .running, false⟩ },
        fun h => { h with nextPosition := 64 },
        fun h => { h with op := some (.record 4 0 0) }, fun h => { h with waiting := [.copy 2] },
        fun h => { h with op := some (.record 4 0 0), retried := true, waiting := [.copy 2], erase := some ⟨6, 400, 2, .frozen, false⟩ },
        fun h => { h with op := some (.record 4 0 0), nextPosition := 63, erase := some ⟨6, 400, 16, .frozen, false⟩ }],
      FaultsOk (storing f) ∧ (storing f).history.queue = 4 :: [] ∧ (storing f).history.clearing = none ∧
        (storing f).history.disabled = false ∧ (storing f).history.scanning = false ∧
        (∃ l, (storing f).history.sectors[5]? = some l ∧ 63 < l.length) ∧
        ((storing f).history.activeOpen = true ∧ .record ∉ (storing f).history.waiting)) ∧
      (∃ l, (storing fun h => { h with op := some (.record 4 0 0) }).history.sectors[5]? = some l ∧ 1 < l.length) ∧
      (∀ f ∈ [fun (h : History) => { h with known := h.known.set 5 .active }, fun h => h,
          fun h => { h with erase := some ⟨6, 400, 2, .frozen, false⟩ }],
        let s := withStore (storing f) fun h => { h with clearing := some .waiting, op := some (.record 4 0 0) }
        FaultsOk s ∧ s.history.queue = 4 :: [] ∧ s.history.clearing = some .waiting ∧ s.history.disabled = false ∧
          s.history.scanning = false ∧ ∃ l, s.history.sectors[s.history.active]? = some l ∧
            s.history.nextPosition < l.length) ∧
      (running.fault 25).occurrences ≤ 65535 := by
  refine ⟨fun f hf => ?_, ⟨_, rfl, by decide⟩, fun f hf => ?_, by decide⟩ <;>
    simp only [List.mem_cons, List.not_mem_nil, or_false] at hf
  · rcases hf with rfl | rfl | rfl | rfl | rfl | rfl | rfl <;>
      exact ⟨faultsOk_of_checked (by decide +kernel), rfl, rfl, rfl, rfl, ⟨_, rfl, by decide⟩, rfl, by decide⟩
  · rcases hf with rfl | rfl | rfl <;>
      exact ⟨faultsOk_of_checked (by decide +kernel), rfl, rfl, rfl, rfl, _, rfl, by decide⟩

/-- Each marker, with 3 and with 4 usable sectors; a full log with one lowest serial; an erase frozen under the program; a
clear that waits for the program, whose marker it is, or that erases; and requests that wait, with and without an ACTIVE
marker among them and over a frozen erase; a DISABLED store; and clears over a frozen erase. -/
theorem witness_HeaderProgramsRotateTheSectors :
    (∀ m ∈ [Marker.full, .active 38, .retired], ∀ n ∈ [3, 4],
      FaultsOk (header 5 m n) ∧ (header 5 m n).history.op = some (.header 5 m 0) ∧ (header 5 m n).history.clearing = none ∧
        (header 5 m n).history.disabled = false ∧ (header 5 m n).history.scanning = false ∧
        (header 5 m n).history.waiting = [] ∧ (header 5 m n).history.erase = none ∧
        5 < (header 5 m n).history.sectors.length ∧ 5 < (header 5 m n).history.known.length ∧
        ∀ f ∈ [fun (h : History) => { h with known := .full :: List.replicate 7 .retired },
            fun h => { h with known := List.replicate 8 .full },
            fun h => { h with erase := some ⟨6, 400, 2, .frozen, false⟩ }, fun h => { h with clearing := some .waiting },
            fun h => { h with clearing := some .marking, needActive := some (1, 7) }, fun h => { h with clearing := some .erasing },
            fun h => { h with waiting := [.record], needActive := some (39, 5) }, fun h => { h with waiting := [.header 6 (.active 39)] },
            fun h => { h with waiting := [.copy 2], erase := some ⟨6, 400, 2, .frozen, false⟩ }, fun h => { h with disabled := true },
            fun h => { h with clearing := some .waiting, erase := some ⟨6, 400, 2, .frozen, false⟩ },
            fun h => { h with clearing := some .erasing, erase := some ⟨6, 400, 2, .frozen, false⟩ }],
          FaultsOk (withStore (header 5 m n) f) ∧ (withStore (header 5 m n) f).history.op = some (.header 5 m 0)) := by
  have h : ∀ m ∈ [Marker.full, .active 38, .retired], ∀ n ∈ [3, 4], (header 5 m n).faultsChecked = true ∧
      5 < (header 5 m n).history.sectors.length ∧ 5 < (header 5 m n).history.known.length := by decide +kernel
  exact fun m hm n hn => ⟨faultsOk_of_checked (h m hm n hn).1, rfl, rfl, rfl, rfl, rfl, rfl, (h m hm n hn).2.1,
    (h m hm n hn).2.2, fun f hf => ⟨faultsOk_of_checked (h m hm n hn).1, by
      simp only [List.mem_cons, List.not_mem_nil, or_false] at hf
      rcases hf with rfl | rfl | rfl | rfl | rfl | rfl | rfl | rfl | rfl | rfl | rfl | rfl <;> rfl⟩⟩

/-- An erase to start; one to suspend with 1 µs left; one whose time has run out with its end held back, and one at its
end, with 3 and with 4 usable sectors, also with a suspension requested in time; the sector is the look-ahead of the
active one, and the next after it is ERASED or FULL. -/
theorem witness_ErasesRunAndSuspend :
    (∀ f ∈ [fun (h : History) => { h with eraseList := [6] },
        fun h => { h with erase := some ⟨6, 1, 0, .requested, false⟩, waiting := [.record] },
        fun h => { h with erase := some ⟨6, 0, 0, .requested, true⟩, waiting := [.record] },
        fun h => { h with erase := some ⟨6, 0, 2, .running, false⟩, usable := 3 },
        fun h => { h with erase := some ⟨6, 0, 2, .running, false⟩, usable := 4, waiting := [.copy 2] },
        fun h => { h with erase := some ⟨6, 0, 2, .running, false⟩, disabled := true, queue := [], waiting := [.copy 2] }],
      FaultsOk (storing f)) ∧
      ((storing id).history.active = 5 ∧ (storing id).history.activeOpen = true ∧ (storing id).history.state 6 ≠ .retired ∧
        (∀ k ∈ [3, 4], 6 < (storing fun h => { h with usable := k }).history.known.length) ∧
        ∀ st ∈ [SectorState.erased, .full], (storing fun h => { h with known := h.known.set 7 st }).history.state 7 = st) ∧
      (∀ b ∈ [false, true], ∃ e r rest,
        (storing fun h => { h with erase := some ⟨6, 0, 0, .requested, b⟩, waiting := [.record] }).history.erase = some e ∧
          (storing fun h => { h with erase := some ⟨6, 0, 0, .requested, b⟩, waiting := [.record] }).history.waiting =
            r :: rest ∧ e.phase = .requested ∧ e.late = b) ∧
      ∀ ph ∈ [ErasePhase.running, .requested], ∃ e,
        (storing fun h => { h with erase := some ⟨6, 0, 2, ph, false⟩ }).history.erase = some e ∧
          (e.phase = .running ∨ (e.phase = .requested ∧ e.late = false)) ∧ e.remaining = 0 ∧
          (storing fun h => { h with erase := some ⟨6, 0, 2, ph, false⟩ }).history.clearing = none ∧
          (storing fun h => { h with erase := some ⟨6, 0, 2, ph, false⟩ }).history.disabled = false ∧
          (let s := storing fun h =>
            { h with erase := some ⟨6, 0, 2, ph, false⟩, needActive := some (39, 5), known := List.replicate 8 .full }
           s.history.needActive = some (39, 5) ∧ s.history.waiting = [] ∧ s.history.op = none ∧ s.history.scanning = false ∧
            (∀ j < 8, s.history.state j ≠ .erased) ∧ 6 < s.history.known.length) ∧
          (let s := storing fun h => { h with erase := some ⟨6, 0, 2, ph, false⟩, clearing := some .erasing }
           s.history.clearing = some .erasing ∧ s.history.disabled = false ∧ s.history.scanning = false ∧
            s.history.op = none ∧ s.history.waiting = [] ∧ s.history.eraseList = [] ∧ s.history.needActive = none ∧
            6 < s.history.known.length) := by
  refine ⟨fun f hf => ?_, by decide, fun b _ => ⟨_, _, _, rfl, rfl, rfl, rfl⟩, fun ph hp => ?_⟩
  · simp only [List.mem_cons, List.not_mem_nil, or_false] at hf
    rcases hf with rfl | rfl | rfl | rfl | rfl | rfl <;> exact faultsOk_of_checked (by decide +kernel)
  · simp only [List.mem_cons, List.not_mem_nil, or_false] at hp
    rcases hp with rfl | rfl
    · exact ⟨_, rfl, .inl rfl, rfl, rfl, rfl, ⟨rfl, rfl, rfl, rfl, by decide, by decide⟩, rfl, rfl, rfl, rfl, rfl, rfl, rfl,
        by decide⟩
    · exact ⟨_, rfl, .inr ⟨rfl, rfl⟩, rfl, rfl, rfl, ⟨rfl, rfl, rfl, rfl, by decide, by decide⟩, rfl, rfl, rfl, rfl, rfl, rfl,
        rfl, by decide⟩

set_option maxRecDepth 20000 in
/-- A scan with an ACTIVE sector, one with two INVALID sectors besides, one with six RETIRED sectors and a copy that waits,
and one of erased sectors only, which also hold no number to be one above; a copy to
answer, and one being read over a frozen erase, with and without a CLEAR_HISTORY that waits for it. -/
theorem witness_ScansAndCopiesEnd :
    (∀ s ∈ [scanning, scanningInvalid, scanningWorn, withStore running fun h => { h with scanning := true }],
      FaultsOk s ∧ StoreQueueOk s ∧ s.history.scanning = true ∧ s.history.sectors.length = 8 ∧
        (∀ l ∈ s.history.sectors, l.length = 64) ∧ s.history.op = none ∧ s.history.erase = none ∧
        s.history.clearing = none ∧ s.history.disabled = false) ∧
      scanningWorn.history.waiting = [.copy 3] ∧
      ((List.range 8).filter fun j => decide (headerState (scanningWorn.history.word j 0) ≠ .retired)).length = 2 ∧
      (∀ j ∈ [2, 5], headerState (scanningInvalid.history.word j 0) = .invalid) ∧
      headerState (scanning.history.word 0 0) = .active ∧ (∀ j < 8, j ≠ 0 → headerState (scanning.history.word j 0) = .erased) ∧
      (∀ j < 8, headerState (running.history.word j 0) = .erased) ∧
      (FaultsOk copyAnswered ∧ StoreQueueOk copyAnswered ∧
        ∃ d f, copyAnswered.ownAnswered .copy = some d ∧ copyAnswered.history.copyFlight = some f) ∧
      (∀ c ∈ [none, some ClearPhase.waiting], FaultsOk (reading c) ∧ StoreQueueOk (reading c) ∧
        (reading c).history.op = some (.copy 3) ∧ (reading c).history.clearing = c ∧ (reading c).history.scanning = false ∧
        ∀ e, (reading c).history.erase = some e → e.phase = .frozen) := by
  have h : ∀ s ∈ [scanning, scanningInvalid, scanningWorn, withStore running fun h => { h with scanning := true }],
      s.faultsChecked = true ∧ s.storeChecked = true ∧ s.history.scanning = true ∧ s.history.sectors.length = 8 ∧
        (∀ l ∈ s.history.sectors, l.length = 64) ∧ s.history.op = none ∧ s.history.erase = none ∧
        s.history.clearing = none ∧ s.history.disabled = false := by decide +kernel
  exact ⟨fun s hs => ⟨faultsOk_of_checked (h s hs).1, storeQueueOk_of_checked (h s hs).2.1, (h s hs).2.2⟩,
    rfl, by decide +kernel, by decide +kernel, by decide +kernel, by decide +kernel, by decide +kernel,
    ⟨faultsOk_of_checked (by decide +kernel), storeQueueOk_of_checked (by decide), _, _, rfl, rfl⟩, fun c _ =>
      ⟨faultsOk_of_checked (by rfl), storeQueueOk_of_checked (by rfl), rfl, rfl, rfl, by rintro e ⟨⟩; rfl⟩⟩

/-- The window of section 4.9, its first and its last 16 bytes. -/
theorem witness_TranslationStaysInsideTheSlot :
    let g : Geometry := { w := 1280, h := 800, vw := 1024, vh := 720, bases := [] }
    (0 < g.vw ∧ g.vw % 32 = 0 ∧ g.vw ≤ g.w ∧ g.vh ≤ g.h ∧ g.w % 32 = 0) ∧
      (128 % 8 = 0 ∧ 128 ≤ g.w - g.vw ∧ 40 ≤ g.h - g.vh) ∧
      ∀ o ∈ [0, g.vw * g.vh * 2 - 16], o < g.vw * g.vh * 2 ∧ o % 16 = 0 ∧ o + 16 * 1 ≤ g.vw * g.vh * 2 := by decide

/-! ## The invariants at a state other than the reset state -/

/-- Reads, writes, an unreported entry, a full ring but for two records, a glare list, a held mode and a running counter. -/
def busy : State :=
  (((withFault (withLeft (contending 7) fun x => { x with glare := [⟨40, 620, 217, 218⟩], working := 2000 }) 4 fun e =>
      { e with state := .active, heal := 1, pending := some .toActive, occurrences := 1 }).setReport
      { running.report with backlog := [4], produce := 65, consume := 3 }).setLadder ⟨.night, some .night, none⟩).setPwm
    { counting := true, counter := 9999, workingD := 2, workingP := 9998, stagedD := 2, stagedP := 62 }

/-- The first of a queue of commands is taken. -/
def proceeds (i : Instr) : Prop := ∃ t, step (busy.setPending [i]) = .next t

theorem witness_StepsKeepOutstandingBounds :
    OutstandingOk (busy.setPending [.forwardedRequestGrant .write]) ∧
      TagsOk (busy.setPending [.forwardedRequestGrant .write]) ∧ proceeds (.forwardedRequestGrant .write) :=
  ⟨⟨by decide, by decide⟩, tagsOk_of_checked (by decide), _, rfl⟩

theorem witness_StepsKeepFaultTable :
    FaultsOk (busy.setPending [.ownRequestGrant .write]) ∧ StoreQueueOk (busy.setPending [.ownRequestGrant .write]) ∧
      proceeds (.ownRequestGrant .write) :=
  ⟨faultsOk_of_checked (by decide +kernel), storeQueueOk_of_checked (by decide), _, rfl⟩

theorem witness_StepsKeepBacklogAndRing :
    BacklogOk (busy.setPending [.recordWriteIssue]) ∧ RingOk (busy.setPending [.recordWriteIssue]) ∧
      proceeds .recordWriteIssue :=
  ⟨backlogOk_of_entries (by decide) (by decide) (by decide +kernel) (by decide +kernel),
    ⟨by decide, fun f hf => by cases hf⟩, _, rfl⟩

set_option maxRecDepth 20000 in
theorem witness_StepsKeepViews :
    ViewsOk (busy.setPending [.captureStrobe .left]) ∧ SlotAreasOk (busy.setPending [.captureStrobe .left]) ∧
      proceeds (.captureStrobe .left) :=
  ⟨viewsOk_of_checked (by decide +kernel), fun v _ => by cases v <;> decide, _, rfl⟩

theorem witness_StepsKeepBlankingAndOutputs :
    BlankingOk (busy.setPending [.pwmWrap]) ∧ GlareOk (busy.setPending [.pwmWrap]) ∧ HoldOk (busy.setPending [.pwmWrap]) ∧
      PwmOk (busy.setPending [.pwmWrap]) ∧ proceeds .pwmWrap := by
  refine ⟨blankingOk_of_checked (by decide +kernel), fun v => ?_, fun m hm => ?_, ⟨by decide, by decide, by decide⟩, _, rfl⟩
  · cases v <;> exact ⟨⟨by decide, by decide⟩, by decide⟩
  · cases hm
    decide

end Sys2Proof.Tests
end

