-- ==== Sys2Proof/Proofs/PinRelease.lean ====
section
/-! RELEASE_PIN (R20): how a command that posts an immediate result ends, which slot a view's search finds, and what the
command makes of it. -/

namespace Sys2Proof.Machine

/-! ## A command that posts its immediate result -/

/-- A result posted changes nothing but the attachment and path units. -/
theorem reply_rest (s : State) (issue : BitVec 32) (code : ResultCode) :
    (s.reply issue code).views = s.views ∧ (s.reply issue code).report = s.report ∧
      (s.reply issue code).path = { s.path with own := (s.reply issue code).path.own } := by
  obtain ⟨⟨-, hpath, -, hrest⟩, -⟩ := State.want_spec
    (s.setAttach { s.attach with immediate := { issue := issue, code := code, detail := 0, due := true } }) .immediate
  have hreply : s.reply issue code =
      (s.setAttach (s.reply issue code).attach).setPath (s.reply issue code).path := hrest
  exact ⟨by rw [hreply]; rfl, by rw [hreply]; rfl, hpath⟩

/-- `finish` marks a status write due exactly at a change of a status field, where `t` has not touched the marks (R141). -/
theorem finish_marks {s t : State} (hr : t.report.status = s.report.status) :
    ∃ u, finish s t = .next u ∧ MarksStatus s u ∧ (u = t ∨ u = t.statusDue) := by
  rcases finish_spec s t with ⟨hs, hf⟩ | ⟨hs, hf⟩
  · refine ⟨t, hf, ?_, .inl rfl⟩
    rw [MarksStatus, if_pos hs, hr]
    exact ⟨rfl, rfl⟩
  · refine ⟨t.statusDue, hf, ?_, .inr rfl⟩
    rw [MarksStatus, status_statusDue, if_neg hs]
    exact ⟨rfl, rfl⟩

/-- A command whose effect `w` leaves the attachment, path and report units alone, and which then posts a result (R175). -/
theorem completes_of_reply {i : Instr} {s w : State} {h : Handover} {code : ResultCode} {l : List Part}
    (he : exec i s = finish s ((w.setAttach { s.attach with inHand := none }).reply h.record.issue code))
    (ha : w.attach = s.attach) (hp : w.path = s.path) (hr : w.report = s.report) (hw : OnlyChanges l s w) :
    Completes i s fun t =>
      Posts h code s t ∧ OwnQueueOnly s t ∧ t.views = w.views ∧ OnlyChanges ([.attach, .path] ++ l) s t ∧
        MarksStatus s t := by
  rw [← ha] at he
  have hposts : Posts h code w _ := State.reply_posts w h code
  have hframe := reply_frame (w.setAttach { w.attach with inHand := none }) h.record.issue code
  obtain ⟨hviews, hreport, hown⟩ := reply_rest (w.setAttach { w.attach with inHand := none }) h.record.issue code
  generalize (w.setAttach { w.attach with inHand := none }).reply h.record.issue code = t at *
  simp only [State.setAttach_views, State.setAttach_report, State.setAttach_path, hr, hp] at hviews hreport hown
  have honly : OnlyChanges ([.attach, .path] ++ l) s t :=
    (hw.mono (by simp +contextual)).trans
      (((setAttach_frame w _).mono (by simp)).trans (hframe.mono (by simp +contextual)))
  have hposted : Posts h code s t := by simpa only [Posts, ha, hp] using hposts
  obtain ⟨u, hu, hmarks, rfl | rfl⟩ := finish_marks (s := s) (t := t) (by rw [hreport])
  · exact ⟨_, he.trans hu, hposted, hown, hviews, honly, hmarks⟩
  · exact ⟨_, he.trans hu, hposted, hown, hviews, honly.trans ((statusDue_frame t).mono (by simp)), hmarks⟩

/-! ## The slot that a view's search finds -/

/-- An element that alone meets a test is the one a search finds. -/
theorem firstIndex_of_unique {α : Type} {p : α → Bool} {l : List α} {i : Nat} {a : α} (hi : l[i]? = some a)
    (ha : p a = true) (hu : ∀ j b, l[j]? = some b → p b = true → j = i) : firstIndex p l = some i := by
  obtain ⟨hlt, rfl⟩ := List.getElem?_eq_some_iff.1 hi
  refine List.findIdx?_eq_some_iff_getElem.2 ⟨hlt, ha, fun j hj hpj => ?_⟩
  exact absurd (hu j _ (List.getElem?_eq_getElem (hj.trans hlt)) hpj) hj.ne

namespace View

variable {x : View}

/-- The PINNED slot of a view is the one it has (R4). -/
theorem pinnedSlot_of_pinned {i : Nat} {sl : Slot} (hx : ViewOk x) (hi : x.slots[i]? = some sl)
    (hs : sl.state = .pinned) : x.pinnedSlot = some i := by
  obtain ⟨-, -, -, -, -, honce, -⟩ := hx
  exact firstIndex_of_unique hi (by simp [hs]) fun j sl' hj hp => honce j i sl' sl hj hi (by simpa using hp) hs

/-- The slot whose pin request is set is the SHOWN slot (R3, R4). -/
theorem requestedSlot_of_requested {i : Nat} {sl : Slot} (hx : ViewOk x) (hi : x.slots[i]? = some sl)
    (hs : sl.state = .shown) (hr : sl.pinRequest = true) : x.requestedSlot = some i := by
  obtain ⟨-, -, hshown, -, -, -, -⟩ := hx
  refine firstIndex_of_unique hi (by simp [hs, hr]) fun j sl' hj hp => ?_
  obtain ⟨hs', -⟩ : sl'.state = .shown ∧ sl'.pinRequest = true := by simpa using hp
  exact Option.some.inj (((hshown j sl' hj).1 hs').symm.trans ((hshown i sl hi).1 hs))

theorem pinnedSlot_eq_none (h : ∀ sl : Slot, sl ∈ x.slots → sl.state ≠ .pinned) : x.pinnedSlot = none :=
  List.findIdx?_eq_none_iff.2 fun sl hm => by simpa using h sl hm

theorem requestedSlot_eq_none (h : ∀ sl : Slot, sl ∈ x.slots → sl.state = .shown → sl.pinRequest = false) :
    x.requestedSlot = none :=
  List.findIdx?_eq_none_iff.2 fun sl hm => by
    cases hs : sl.state <;> simp [h sl hm, hs]

/-- The view with one slot changed, slot by slot. -/
theorem modifySlot_spec {i : Nat} {sl : Slot} (f : Slot → Slot) (hi : x.slots[i]? = some sl) :
    x.modifySlot i f = { x with slots := (x.modifySlot i f).slots } ∧
      (x.modifySlot i f).slots.length = x.slots.length ∧ (x.modifySlot i f).slots[i]? = some (f sl) ∧
      ∀ j, j ≠ i → (x.modifySlot i f).slots[j]? = x.slots[j]? := by
  refine ⟨rfl, by simp [modifySlot, updateAt], by simp [modifySlot, updateAt, hi], fun j hj => ?_⟩
  simp [modifySlot, updateAt, hj.symm]

end View

/-! ## RELEASE_PIN (R20) -/

theorem sideOf_viewByte (v : Side) : sideOf (viewByte v) = some v := by cases v <;> rfl

/-- RELEASE_PIN in hand for a view is its effect on that view, the result posted. -/
theorem exec_releasePin {s : State} {h : Handover} {v : Side} (hh : InHand (.releasePin (viewByte v)) s h) :
    exec (.releasePin (viewByte v)) s =
      finish s (State.posting h (State.releasePin v ((s.quiet).setAttach { s.attach with inHand := none }))) := by
  obtain ⟨hhand, hcommand⟩ := hh
  have harm : exec (.releasePin (viewByte v)) s = execReleasePin (viewByte v) s := rfl
  rw [harm, execReleasePin, carryOut_of_inHand hhand hcommand, State.onView, sideOf_viewByte]

/-- RELEASE_PIN of a view that changes slot `i` by `f`: that slot, the posted result, and nothing else (R20, R175). -/
theorem completes_releasePin_of_modifySlot {s : State} {h : Handover} {v : Side} {i : Nat} {sl : Slot} (f : Slot → Slot)
    (hh : InHand (.releasePin (viewByte v)) s h) (hi : (s.view v).slots[i]? = some sl)
    (hf : ∀ t : State, t.view v = s.view v →
      State.releasePin v t = (t.setView v ((s.view v).modifySlot i f), .done)) :
    Completes (.releasePin (viewByte v)) s fun t =>
      Posts h .done s t ∧ OwnQueueOnly s t ∧ t.view v = { s.view v with slots := (t.view v).slots } ∧
        (t.view v).slots.length = (s.view v).slots.length ∧ (t.view v).slots[i]? = some (f sl) ∧
        (∀ j, j ≠ i → (t.view v).slots[j]? = (s.view v).slots[j]?) ∧
        OnlyChanges [.attach, .path, viewPart v] s t ∧ MarksStatus s t := by
  have hexec := exec_releasePin hh
  rw [hf ((s.quiet).setAttach { s.attach with inHand := none }) rfl] at hexec
  obtain ⟨t, ht, hposts, hown, hviews, honly, hmarks⟩ :=
    completes_of_reply (w := (s.quiet).setView v ((s.view v).modifySlot i f)) hexec rfl rfl rfl
      (((quiet_frame s).mono (by simp)).trans (setView_frame _ v _))
  have hview : t.view v = (s.view v).modifySlot i f :=
    (State.views_eq_iff.1 hviews v).trans (State.view_setView _ _ _)
  refine ⟨t, ht, hposts, hown, ?_⟩
  rw [hview]
  obtain ⟨hrest, hlength, hself, hothers⟩ := View.modifySlot_spec f hi
  exact ⟨hrest, hlength, hself, hothers, honly, hmarks⟩

/-- RELEASE_PIN of a view that has nothing to release is refused with ALREADY (R20). -/
theorem onlyPosts_releasePin_already {s : State} {h : Handover} {v : Side}
    (hh : InHand (.releasePin (viewByte v)) s h) (hpinned : (s.view v).pinnedSlot = none)
    (hrequested : (s.view v).requestedSlot = none) : OnlyPosts (.releasePin (viewByte v)) h .already s := by
  have hrefused : ∀ t : State, t.view v = s.view v → State.releasePin v t = (t, .already) := fun t ht => by
    simp only [State.releasePin, ht, hpinned, hrequested]
  have hexec := exec_releasePin hh
  rw [hrefused ((s.quiet).setAttach { s.attach with inHand := none }) rfl] at hexec
  obtain ⟨t, ht, hposts, hown, -, honly, hmarks⟩ :=
    completes_of_reply (w := s.quiet) hexec rfl rfl rfl (quiet_frame s)
  exact ⟨t, ht, hposts, hown, honly, hmarks⟩

/-- Settles O36: `ViewOk` makes the PINNED and the requested SHOWN slot unique, so the search of RELEASE_PIN finds the one
the statement names. -/
theorem releasePinReleasesThePin : Obligations.ReleasePinReleasesThePin := by
  unfold Obligations.ReleasePinReleasesThePin
  rintro _ s h v hh rfl hok
  refine ⟨fun i sl hi hpin => ?_, fun hnone => ⟨fun i sl hi hshown hreq => ?_, fun hreq => ?_⟩⟩
  · have hpinned := View.pinnedSlot_of_pinned hok hi hpin
    exact completes_releasePin_of_modifySlot Slot.released hh hi fun t ht => by
      simp only [State.releasePin, ht, hpinned]
  · have hpinned := View.pinnedSlot_eq_none hnone
    have hrequested := View.requestedSlot_of_requested hok hi hshown hreq
    exact completes_releasePin_of_modifySlot (fun sl => { sl with pinRequest := false }) hh hi fun t ht => by
      simp only [State.releasePin, ht, hpinned, hrequested]
  · exact onlyPosts_releasePin_already hh (View.pinnedSlot_eq_none hnone) (View.requestedSlot_eq_none hreq)

end Sys2Proof.Machine
end

