-- ==== Sys2Proof/Proofs/ToneMap.lean ====
section
/-! The tone map (R38): what a segment of the tone curve adds to its first entry, and the developed luma as that
interpolation. -/

namespace Sys2Proof.Machine

/-! ## What a segment adds to its first entry -/

/-- Rounding to nearest never leaves the segment: at a fraction below 64 the rise lies between none and all of it. -/
theorem segmentRise_between (rise : Int) {f : Nat} (hf : f ≤ 63) :
    min 0 rise ≤ (rise * f + 32) / 64 ∧ (rise * f + 32) / 64 ≤ max 0 rise := by
  have hf63 : (f : Int) ≤ 63 := by omega
  rcases le_total 0 rise with hup | hdown
  · have hlow : 0 ≤ rise * f := mul_nonneg hup f.cast_nonneg
    have hhigh : rise * f ≤ rise * 63 := mul_le_mul_of_nonneg_left hf63 hup
    omega
  · have hlow : rise * 63 ≤ rise * f := mul_le_mul_of_nonpos_left hf63 hdown
    have hhigh : rise * f ≤ 0 := mul_nonpos_of_nonpos_of_nonneg hdown f.cast_nonneg
    omega

/-- At the last fraction the rounding reaches the next entry exactly for rises from -31 to 32; the floor toward minus
infinity makes the two ends differ. -/
theorem segmentRise_last_eq_iff (rise : Int) : (rise * 63 + 32) / 64 = rise ↔ -31 ≤ rise ∧ rise ≤ 32 := by
  omega

/-! ## The developed luma -/

section ToneMap

variable {p : Snapshot} {e c a d : Nat}

/-- The developed luma is the interpolation in the segment of the compressed value `c`: the result is never negative, so
the model's `toNat` loses nothing. -/
theorem toneMap_eq (hc : min (e / 2 ^ p.shift) 4095 = c) (ha : p.curve[c / 64]? = some a)
    (hd : p.curve[c / 64 + 1]? = some d) :
    (toneMap p e : Int) = a + ((d - a : Int) * (c % 64 : Nat) + 32) / 64 := by
  obtain ⟨hlow, -⟩ := segmentRise_between (d - a) (f := c % 64) (by omega)
  have htoneMap : toneMap p e = (a + ((d - a : Int) * (c % 64 : Nat) + 32) / 64).toNat := by
    simp only [toneMap, hc, List.getD_eq_getElem?_getD, ha, hd, Option.getD_some]
  rw [htoneMap, Int.toNat_of_nonneg (by omega)]

/-- The developed luma lies between the two entries of its segment. -/
theorem toneMap_between (hc : min (e / 2 ^ p.shift) 4095 = c) (ha : p.curve[c / 64]? = some a)
    (hd : p.curve[c / 64 + 1]? = some d) : min a d ≤ toneMap p e ∧ toneMap p e ≤ max a d := by
  have hy := toneMap_eq hc ha hd
  obtain ⟨hlow, hhigh⟩ := segmentRise_between (d - a) (f := c % 64) (by omega)
  omega

/-- At the start of a segment the developed luma is the segment's first entry. -/
theorem toneMap_of_fraction_zero (hc : min (e / 2 ^ p.shift) 4095 = c) (ha : p.curve[c / 64]? = some a)
    (hd : p.curve[c / 64 + 1]? = some d) (hf : c % 64 = 0) : toneMap p e = a := by
  have hy := toneMap_eq hc ha hd
  rw [hf] at hy
  omega

/-- At the end of a segment the developed luma is the next entry exactly where the segment rises by -31 to 32. -/
theorem toneMap_eq_next_iff (hc : min (e / 2 ^ p.shift) 4095 = c) (ha : p.curve[c / 64]? = some a)
    (hd : p.curve[c / 64 + 1]? = some d) (hf : c % 64 = 63) :
    toneMap p e = d ↔ -31 ≤ (d - a : Int) ∧ (d - a : Int) ≤ 32 := by
  have hy := toneMap_eq hc ha hd
  rw [hf] at hy
  rw [← segmentRise_last_eq_iff]
  omega

end ToneMap

/-- A merged value fits 12 bits after compression by the largest shift (R37, R38). -/
theorem compressed_of_shift_five {e : Nat} (he : e ≤ 131040) : min (e / 2 ^ 5) 4095 = e / 32 := by
  omega

/-- Settles O19: the luma is the segment's interpolation (`toneMap_eq`), from which the bounds and the corners of R38
follow. -/
theorem toneMapInterpolatesCurve : Obligations.ToneMapInterpolatesCurve := by
  unfold Obligations.ToneMapInterpolatesCurve
  intro p e _ hbytes _ he e' i f a d ha hd y
  have he' : e' ≤ 4095 := min_le_right _ _
  have hi : i ≤ 63 := by omega
  have hf : f ≤ 63 := by omega
  have hy : (y : Int) = a + ((d - a : Int) * f + 32) / 64 := toneMap_eq rfl ha hd
  obtain ⟨hlow, hhigh⟩ : min a d ≤ y ∧ y ≤ max a d := toneMap_between rfl ha hd
  have hbyte : y ≤ 255 :=
    hhigh.trans (max_le (hbytes a (List.mem_of_getElem? ha)) (hbytes d (List.mem_of_getElem? hd)))
  have hnext : f = 63 → (y = d ↔ -31 ≤ (d - a : Int) ∧ (d - a : Int) ≤ 32) := toneMap_eq_next_iff rfl ha hd
  refine ⟨hi, hf, hy, hlow, hhigh, hbyte, fun hshift hlarge => ?saturates, fun hshift => ?fits, fun hmax => ?curveEnd,
    fun hflat => by omega, toneMap_of_fraction_zero rfl ha hd, fun hfalls hlast => ?falling⟩
  case saturates =>
    simp only [e', hshift]
    omega
  case fits =>
    simp only [e', hshift]
    exact compressed_of_shift_five he
  case curveEnd =>
    have hlast : f = 63 := by omega
    refine ⟨by omega, hlast, ?_, hnext hlast⟩
    rw [hy, hlast]
    rfl
  case falling =>
    rw [hnext hlast]
    omega

end Sys2Proof.Machine
end

