-- ==== Sys2Proof/Proofs/Dimming.lean ====
section
/-! The chroma of a dimmed pair (R68): the bytes of a developed pair word, and what the gain leaves of a colour's distance
from neutral. -/

namespace Sys2Proof.Machine

/-! ## The bytes of a developed pair word -/

theorem byteOf_append_zero {n : Nat} (x : BitVec n) (b : Byte) : byteOf (x ++ b) 0 = b := by
  refine BitVec.eq_of_getLsbD_eq fun i hi => ?_
  simp [byteOf, BitVec.getLsbD_append, hi]

theorem byteOf_append_succ {n : Nat} (x : BitVec n) (b : Byte) (k : Nat) : byteOf (x ++ b) (k + 1) = byteOf x k := by
  refine BitVec.eq_of_getLsbD_eq fun i hi => ?_
  have hpast : ¬ 8 * (k + 1) + i < 8 := by omega
  have hindex : 8 * (k + 1) + i - 8 = 8 * k + i := by omega
  simp [byteOf, BitVec.getLsbD_append, hpast, hindex]

/-- The bytes of a developed pair word in order. -/
theorem byteOf_pairWord (y0 u y1 v : Byte) {k : Nat} (hk : k < 4) :
    byteOf (pairWord y0 u y1 v) k = [y0, u, y1, v].getD k 0 := by
  rw [pairWord]
  match k with
  | 0 => exact byteOf_append_zero ..
  | 1 => rw [byteOf_append_succ, byteOf_append_zero]; rfl
  | 2 => rw [byteOf_append_succ, byteOf_append_succ, byteOf_append_zero]; rfl
  | 3 => rw [byteOf_append_succ, byteOf_append_succ, byteOf_append_succ]; exact BitVec.extractLsb'_eq_self

/-! ## The gain on a colour's distance from neutral -/

section Chroma

variable {gain : Nat}

/-- A gain of 64 to 256 leaves a distance of either sign between none and all of itself: the rounding to nearest never
passes an end. -/
theorem dimmedDistance_between (d : Int) (hlow : 64 ≤ gain) (hhigh : gain ≤ 256) :
    min 0 d ≤ (d * gain + 128) / 256 ∧ (d * gain + 128) / 256 ≤ max 0 d := by
  have hhigh' : (gain : Int) ≤ 256 := by omega
  rcases le_total 0 d with hup | hdown
  · have hnonneg : 0 ≤ d * gain := mul_nonneg hup gain.cast_nonneg
    have hle : d * gain ≤ d * 256 := mul_le_mul_of_nonneg_left hhigh' hup
    omega
  · have hge : d * 256 ≤ d * gain := mul_le_mul_of_nonpos_left hhigh' hdown
    have hnonpos : d * gain ≤ 0 := mul_nonpos_of_nonpos_of_nonneg hdown gain.cast_nonneg
    omega

/-- The dimmed chroma is R68's formula: the result is never negative, so the model's `toNat` loses nothing. -/
theorem dimChroma_eq (c : Nat) (hlow : 64 ≤ gain) (hhigh : gain ≤ 256) :
    (dimChroma gain c : Int) = 128 + (((c : Int) - 128) * gain + 128) / 256 := by
  obtain ⟨hge, -⟩ := dimmedDistance_between ((c : Int) - 128) hlow hhigh
  rw [dimChroma, Int.toNat_of_nonneg (by omega)]

/-- A dimmed colour moves toward neutral and does not pass it (R68). -/
theorem dimChroma_between (c : Nat) (hlow : 64 ≤ gain) (hhigh : gain ≤ 256) :
    min 128 c ≤ dimChroma gain c ∧ dimChroma gain c ≤ max 128 c := by
  obtain ⟨hge, hle⟩ := dimmedDistance_between ((c : Int) - 128) hlow hhigh
  have hz := dimChroma_eq c hlow hhigh
  omega

/-- Full gain keeps the chroma (R68). -/
@[simp] theorem dimChroma_full (c : Nat) : dimChroma 256 c = c := by
  have hz := dimChroma_eq c (gain := 256) (by omega) le_rfl
  omega

/-- A chroma byte of a dimmed word: the stored lumas decide whether it is dimmed, and a dimmed one still fits its byte. -/
theorem byteOf_dimWord_chroma (protect : Nat) (w : BitVec 32) {k : Nat} (hk : k = 1 ∨ k = 3) (hlow : 64 ≤ gain)
    (hhigh : gain ≤ 256) :
    (byteOf (dimWord protect gain w) k).toNat =
      if protect < (byteOf w 0).toNat ∨ protect < (byteOf w 2).toNat then dimChroma gain (byteOf w k).toNat
      else (byteOf w k).toNat := by
  have hword : byteOf (dimWord protect gain w) k =
      if protect < (byteOf w 0).toNat ∨ protect < (byteOf w 2).toNat then
        BitVec.ofNat 8 (dimChroma gain (byteOf w k).toNat)
      else byteOf w k := by
    rcases hk with rfl | rfl <;> exact byteOf_pairWord _ _ _ _ (by omega)
  obtain ⟨-, hle⟩ := dimChroma_between (byteOf w k).toNat hlow hhigh
  have hbyte : (byteOf w k).toNat < 256 := (byteOf w k).isLt
  rw [hword]
  split
  · exact Nat.mod_eq_of_lt (by omega)
  · rfl

end Chroma

/-- Settles O27: a chroma byte of the word is `dimChroma` of the stored one exactly where a stored luma is above the
protect level (`byteOf_dimWord_chroma`). -/
theorem chromaIsDimmedWithTheLuma : Obligations.ChromaIsDimmedWithTheLuma := by
  unfold Obligations.ChromaIsDimmedWithTheLuma
  intro protect gain w _ _ hlow hhigh k hk y0 y1 c z
  have hz : z = if protect < y0 ∨ protect < y1 then dimChroma gain c else c :=
    byteOf_dimWord_chroma protect w hk hlow hhigh
  by_cases hbright : protect < y0 ∨ protect < y1
  · rw [if_pos hbright] at hz
    obtain ⟨hge, hle⟩ := dimChroma_between c hlow hhigh
    rw [if_pos hbright, hz]
    exact ⟨dimChroma_eq c hlow hhigh, hge, hle, by rintro rfl; exact dimChroma_full c⟩
  · rw [if_neg hbright] at hz
    rw [if_neg hbright, hz]
    exact ⟨rfl, min_le_right _ _, le_max_right _ _, fun _ => rfl⟩

end Sys2Proof.Machine
end

