-- ==== Sys2Proof/Proofs/Translation.lean ====
section
/-! The translation of a view offset (R60): the slot line and column a view byte goes to, the beats of one view line, and
the slot bytes of a burst's pieces (R61). -/

namespace Sys2Proof.Machine

/-! ## The slot line and column of a view byte -/

section Translation

variable {g : Geometry} {px py o : Nat}

/-- The translation as slot line times line length plus slot column. -/
theorem slotOffset_eq_line_add_column (g : Geometry) (px py o : Nat) :
    slotOffset g (px, py) o = g.w * 2 * (o / (g.vw * 2) + py) + (px * 2 + o % (g.vw * 2)) := by
  rw [slotOffset, mul_comm (g.w * 2), add_assoc]

/-- A view byte's slot column, at an origin that keeps the window inside the frame. -/
theorem slotColumn_lt (hvw : 0 < g.vw) (hw : g.vw ≤ g.w) (hpx : px ≤ g.w - g.vw) :
    px * 2 + o % (g.vw * 2) < (g.w - g.vw) * 2 + g.vw * 2 ∧ px * 2 + o % (g.vw * 2) < g.w * 2 := by
  have hx : o % (g.vw * 2) < g.vw * 2 := Nat.mod_lt _ (by omega)
  omega

/-- A view offset of the window is on one of its lines (R58). -/
theorem viewLine_lt (ho : o < g.vw * g.vh * 2) : o / (g.vw * 2) < g.vh :=
  Nat.div_lt_of_lt_mul (by rwa [mul_right_comm])

theorem slotOffset_div (hvw : 0 < g.vw) (hw : g.vw ≤ g.w) (hpx : px ≤ g.w - g.vw) :
    slotOffset g (px, py) o / (g.w * 2) = o / (g.vw * 2) + py := by
  obtain ⟨-, hcolumn⟩ := slotColumn_lt (o := o) hvw hw hpx
  rw [slotOffset_eq_line_add_column, Nat.mul_add_div (by omega), Nat.div_eq_of_lt hcolumn, add_zero]

theorem slotOffset_mod (hvw : 0 < g.vw) (hw : g.vw ≤ g.w) (hpx : px ≤ g.w - g.vw) :
    slotOffset g (px, py) o % (g.w * 2) = px * 2 + o % (g.vw * 2) := by
  obtain ⟨-, hcolumn⟩ := slotColumn_lt (o := o) hvw hw hpx
  rw [slotOffset_eq_line_add_column, Nat.mul_add_mod, Nat.mod_eq_of_lt hcolumn]

/-- `m` bytes of one view line, from a view offset of the window, lie inside the slot (R60). -/
theorem slotOffset_add_le {m : Nat} (hw : g.vw ≤ g.w) (hh : g.vh ≤ g.h) (hpx : px ≤ g.w - g.vw) (hpy : py ≤ g.h - g.vh)
    (ho : o < g.vw * g.vh * 2) (hm : o % (g.vw * 2) + m ≤ g.vw * 2) :
    slotOffset g (px, py) o + m ≤ g.w * g.h * 2 := by
  have hr := viewLine_lt ho
  have hcolumn : px * 2 + o % (g.vw * 2) + m ≤ g.w * 2 := by omega
  calc slotOffset g (px, py) o + m
      ≤ g.w * 2 * (o / (g.vw * 2) + py + 1) := by 
        rw [slotOffset_eq_line_add_column, Nat.mul_succ, add_assoc]
        exact Nat.add_le_add_left hcolumn _
    _ ≤ g.w * 2 * g.h := Nat.mul_le_mul_left _ (by omega)
    _ = g.w * g.h * 2 := mul_right_comm ..

/-! ## A beat of 16 bytes -/

/-- A view line is a whole number of 16-byte beats. -/
theorem dvd_viewLine (hvw : g.vw % 32 = 0) : 16 ∣ g.vw * 2 := by omega

/-- A view beat on a 16-byte boundary goes to a slot beat on one (R60). -/
theorem slotOffset_aligned (hvw : g.vw % 32 = 0) (hw : g.w % 32 = 0) (hpx : px % 8 = 0) (ho : o % 16 = 0) :
    slotOffset g (px, py) o % 16 = 0 := by
  have hx : o % (g.vw * 2) % 16 = 0 := by rw [Nat.mod_mod_of_dvd _ (dvd_viewLine hvw), ho]
  have hline : 16 ∣ g.w * 2 * (o / (g.vw * 2) + py) := Dvd.dvd.mul_right (by omega) _
  rw [slotOffset_eq_line_add_column]
  omega

/-- Bytes that stay before the end of the view line keep their line, and their columns follow one another. -/
theorem viewLine_add {k : Nat} (hk : o % (g.vw * 2) + k < g.vw * 2) :
    (o + k) / (g.vw * 2) = o / (g.vw * 2) ∧ (o + k) % (g.vw * 2) = o % (g.vw * 2) + k := by
  have hsplit : o + k = g.vw * 2 * (o / (g.vw * 2)) + (o % (g.vw * 2) + k) := by
    rw [← add_assoc, Nat.div_add_mod]
  rw [hsplit, Nat.mul_add_div (by omega), Nat.mul_add_mod, Nat.div_eq_of_lt hk, Nat.mod_eq_of_lt hk]
  exact ⟨rfl, rfl⟩

/-- No beat crosses a view line end (R60). -/
theorem beat_inside_viewLine (hpos : 0 < g.vw) (hvw : g.vw % 32 = 0) (ho : o % 16 = 0) :
    o % (g.vw * 2) + 16 ≤ g.vw * 2 := by
  have hx : o % (g.vw * 2) < g.vw * 2 := Nat.mod_lt _ (by omega)
  have hx16 : o % (g.vw * 2) % 16 = 0 := by rw [Nat.mod_mod_of_dvd _ (dvd_viewLine hvw), ho]
  omega

/-- The translation keeps the bytes of one view line together. -/
theorem slotOffset_add {k : Nat} (hk : o % (g.vw * 2) + k < g.vw * 2) :
    slotOffset g (px, py) (o + k) = slotOffset g (px, py) o + k := by
  obtain ⟨hline, hcolumn⟩ := viewLine_add hk
  rw [slotOffset, slotOffset, hline, hcolumn, ← add_assoc]

end Translation

/-! ## The pieces of a burst -/

/-- The piece of the one beat at view offset `o`. -/
def beatPiece (g : Geometry) (pan : Nat × Nat) (base : Addr) (o : Nat) : Piece :=
  { viewOffset := o, slotOffset := slotOffset g pan o, addr := BitVec.ofNat 36 (base.toNat + slotOffset g pan o), len := 1 }

section Pieces

variable {g : Geometry} {pan : Nat × Nat} {base : Addr} {p : Piece} {o n : Nat}

/-- A burst is walked from the piece of its first beat. -/
theorem splitBurst_eq_splitFrom (g : Geometry) (pan : Nat × Nat) (base : Addr) (o n : Nat) :
    splitBurst g pan base o n = splitFrom g pan base (o + 16) (beatPiece g pan base o) (n - 1) := rfl

/-- The induction over the walk: what holds of a piece that ends at a view offset, when a piece is begun there or grown by
the beat there, holds of every piece of the walk at its own end. -/
theorem splitFrom_invariant {P : Nat → Piece → Prop} (hbegin : ∀ o p, P o p → P (o + 16) (beatPiece g pan base o))
    (hgrow : ∀ o p, P o p → o % (g.vw * 2) ≠ 0 → P (o + 16) { p with len := p.len + 1 }) {b : Piece} (hb : P o b)
    (hp : p ∈ splitFrom g pan base o b n) : ∃ e, e ≤ o + 16 * n ∧ P e p := by
  induction n generalizing o b with
  | zero =>
    obtain rfl : p = b := List.mem_singleton.1 hp
    exact ⟨o, le_rfl, hb⟩
  | succ n ih =>
    rw [splitFrom] at hp
    split at hp
    next =>
      rcases List.mem_cons.1 hp with rfl | hrest
      · exact ⟨o, by omega, hb⟩
      · obtain ⟨e, he, hP⟩ := ih (hbegin o b hb) hrest
        exact ⟨e, by omega, hP⟩
    next hstays =>
      obtain ⟨e, he, hP⟩ := ih (hgrow o b hb fun hline => hstays (.inl hline)) hp
      exact ⟨e, by omega, hP⟩

/-- A piece stands at the translation of its first view offset, in the slot at `base`. -/
def Piece.Translates (g : Geometry) (pan : Nat × Nat) (base : Addr) (p : Piece) : Prop :=
  p.addr = BitVec.ofNat 36 (base.toNat + p.slotOffset) ∧ p.slotOffset = Machine.slotOffset g pan p.viewOffset

/-- A piece serves at least one beat, the view bytes up to `e`, and none past the end of its view line. -/
def Piece.InLineUpTo (g : Geometry) (e : Nat) (p : Piece) : Prop :=
  1 ≤ p.len ∧ p.viewOffset % 16 = 0 ∧ p.viewOffset + 16 * p.len = e ∧
    p.viewOffset % (g.vw * 2) + 16 * p.len ≤ g.vw * 2

theorem beatPiece_translates (g : Geometry) (pan : Nat × Nat) (base : Addr) (o : Nat) :
    (beatPiece g pan base o).Translates g pan base := ⟨rfl, rfl⟩

theorem beatPiece_inLineUpTo (hpos : 0 < g.vw) (hvw : g.vw % 32 = 0) (ho : o % 16 = 0) :
    (beatPiece g pan base o).InLineUpTo g (o + 16) :=
  ⟨le_rfl, ho, rfl, beat_inside_viewLine hpos hvw ho⟩

/-- A piece that does not end at a view line's end has room for one more beat: line and piece are whole beats. -/
theorem Piece.InLineUpTo.grow (hvw : g.vw % 32 = 0) (hp : p.InLineUpTo g o) (ho : o % (g.vw * 2) ≠ 0) :
    { p with len := p.len + 1 }.InLineUpTo g (o + 16) := by
  obtain ⟨-, haligned, rfl, hfits⟩ := hp
  have hend : p.viewOffset % (g.vw * 2) + 16 * p.len ≠ g.vw * 2 := fun hfull => ho <| by
    rw [← Nat.mod_add_mod, hfull, Nat.mod_self]
  have hx16 : p.viewOffset % (g.vw * 2) % 16 = 0 := by rw [Nat.mod_mod_of_dvd _ (dvd_viewLine hvw), haligned]
  exact ⟨Nat.le_add_left _ _, haligned, by simp only; omega, by simp only; omega⟩

/-- Every piece of a burst is translated (R61). -/
theorem splitBurst_translates (hp : p ∈ splitBurst g pan base o n) : p.Translates g pan base := by
  obtain ⟨-, -, htranslates⟩ := splitFrom_invariant (P := fun _ => Piece.Translates g pan base)
    (fun o _ _ => beatPiece_translates g pan base o) (fun _ _ h _ => h) (beatPiece_translates g pan base o) hp
  exact htranslates

/-- Every piece of an aligned burst keeps inside one view line and inside the burst (R61). -/
theorem splitBurst_inLine (hpos : 0 < g.vw) (hvw : g.vw % 32 = 0) (ho : o % 16 = 0) (hn : 1 ≤ n)
    (hp : p ∈ splitBurst g pan base o n) : ∃ e, e ≤ o + 16 * n ∧ p.InLineUpTo g e := by
  have hbegin : ∀ o' p', Piece.InLineUpTo g o' p' → (beatPiece g pan base o').InLineUpTo g (o' + 16) := by
    rintro _ p' ⟨-, haligned, rfl, -⟩
    exact beatPiece_inLineUpTo hpos hvw (by omega)
  obtain ⟨e, he, hline⟩ := splitFrom_invariant hbegin (fun _ _ h => h.grow hvw) (beatPiece_inLineUpTo hpos hvw ho) hp
  exact ⟨e, by omega, hline⟩

end Pieces

/-- Settles O54: line and column by division (`slotOffset_div`, `slotOffset_mod`), a beat by the room it has in its view
line (`beat_inside_viewLine`), and the pieces by the walk's invariants. -/
theorem translationStaysInsideTheSlot : Obligations.TranslationStaysInsideTheSlot := by
  unfold Obligations.TranslationStaysInsideTheSlot
  intro g px py o hpos hvw hw hh hpx8 hpx hpy ho r x q
  have hr : r < g.vh := viewLine_lt ho
  have hqline : q / (g.w * 2) = r + py := slotOffset_div hpos hw hpx
  have hqcolumn : q % (g.w * 2) = px * 2 + x := slotOffset_mod hpos hw hpx
  obtain ⟨hcolumn, -⟩ : px * 2 + x < (g.w - g.vw) * 2 + g.vw * 2 ∧ px * 2 + x < g.w * 2 := slotColumn_lt hpos hw hpx
  have hq : q < g.w * g.h * 2 :=
    slotOffset_add_le (m := 1) hw hh hpx hpy ho (Nat.mod_lt _ (by omega))
  refine ⟨?formula, hqline, hqcolumn, hr, by omega, by omega, hq, fun ho16 hw32 => ⟨?aligned, fun k hk => ?beat⟩,
    fun base n p hn hp => ?pieces⟩
  case formula =>
    change (r + py) * (g.w * 2) + px * 2 + x = _
    rw [mul_assoc]
  case aligned => exact slotOffset_aligned hvw hw32 hpx8 ho16
  case beat =>
    have hbeat := beat_inside_viewLine hpos hvw ho16
    have hroom : o % (g.vw * 2) + k < g.vw * 2 := by omega
    have hqk : slotOffset g (px, py) (o + k) = q + k := slotOffset_add hroom
    obtain ⟨hline, -⟩ := viewLine_add hroom
    refine ⟨hqk, ?_, hline⟩
    rw [← hqk, hqline, slotOffset_div hpos hw hpx, hline]
  case pieces =>
    obtain ⟨haddr, hslot⟩ := splitBurst_translates hp
    refine ⟨haddr, hslot, fun ho16 _ hend => ?_⟩
    obtain ⟨e, he, hlen, -, hserves, hfits⟩ := splitBurst_inLine hpos hvw ho16 hn hp
    rw [hslot]
    exact slotOffset_add_le hw hh hpx hpy (by omega) hfits

end Sys2Proof.Machine
end

