-- ==== Sys2Proof/Proofs/ReportAcknowledgement.lean ====
section
/-! ACK_REPORTS (R139): what the attention line and the ring read of the report writer, what a result posted and the end of
a command leave of it, and the consume index that a valid count moves. -/

namespace Sys2Proof.Machine

/-! ## What reads the consume index -/

/-- ATTN is asserted while attached, with attention enabled, and records are waiting (R128). -/
theorem attention_iff (s : State) :
    s.attention = true ↔
      s.attach.state = .attached ∧ (∃ c, s.attach.current = some c ∧ c.attention = true) ∧
        s.report.produce ≠ s.report.consume := by
  cases hc : s.attach.current with
  | none => simp [State.attention, hc]
  | some c => simp [State.attention, hc, and_assoc]

/-- The ring has room below 64 records (R136). -/
theorem ringRoom_iff (s : State) : s.ringRoom = true ↔ (s.report.produce - s.report.consume).toNat < 64 :=
  decide_eq_true_iff

/-- The consume index is a status field (R141). -/
theorem status_ne_of_consume_ne {s t : State} (h : t.report.consume ≠ s.report.consume) : t.status ≠ s.status :=
  fun hs => h (congrArg StatusFields.consume hs)

/-! ## What the unit's items and the end of a command leave alone -/

/-- Issuing an item queues no request of a source that is none of the unit's. -/
theorem pumpUnit_ownQueued {src : OwnSource} (hsrc : ∀ item : UnitItem, item.source ≠ src) (s : State) :
    s.pumpUnit.ownQueued src = s.ownQueued src := by
  unfold State.pumpUnit
  split
  next item _ _ _ =>
    rw [State.ownQueued_append (State.requestOwn_own _ _)]
    simp [State.ownQueued, hsrc item]
  next => rfl

theorem want_ownQueued {src : OwnSource} (hsrc : ∀ item : UnitItem, item.source ≠ src) (s : State) (item : UnitItem) :
    (s.want item).ownQueued src = s.ownQueued src := by
  unfold State.want
  split
  · rfl
  · exact pumpUnit_ownQueued hsrc _

/-- A result posted queues no record write: records are the report writer's (R137, R164). -/
theorem reply_ownQueued_record (s : State) (issue : BitVec 32) (code : ResultCode) :
    (s.reply issue code).ownQueued .record = s.ownQueued .record :=
  want_ownQueued (fun item => by cases item <;> exact OwnSource.noConfusion) _ .immediate

/-- `finish` touches nothing but the marks of the status writer, and sets both exactly at a change of a status field,
where `t` has the marks of `s` (R141). -/
theorem finish_only_marks {s t : State} (hdue : t.report.status.due = s.report.status.due)
    (hchanged : t.report.status.changed = s.report.status.changed) :
    ∃ u, finish s t = .next u ∧ MarksStatus s u ∧ OnlyChanges [] t u ∧
      u.report =
        { t.report with
          status := { t.report.status with due := u.report.status.due, changed := u.report.status.changed } } := by
  rcases finish_spec s t with ⟨hs, hf⟩ | ⟨hs, hf⟩
  · refine ⟨t, hf, ?_, OnlyChanges.refl _ _, rfl⟩
    rw [MarksStatus, if_pos hs]
    exact ⟨hdue, hchanged⟩
  · refine ⟨t.statusDue, hf, ?_, statusDue_frame t, rfl⟩
    rw [MarksStatus, status_statusDue, if_neg hs]
    exact ⟨rfl, rfl⟩

/-- Where a status field has changed, a status write is due (R141). -/
theorem MarksStatus.due_of_status_ne {s t : State} (h : MarksStatus s t) (hs : t.status ≠ s.status) :
    t.report.status.due = true := by
  rw [MarksStatus, if_neg hs] at h
  exact h.1

/-- A command whose effect `w` leaves the attachment and path units and the marks of the status writer alone, and which
then posts a result (R175): of the report writer's effect `finish` changes no more than those marks. -/
theorem completes_of_reply_of_marks {i : Instr} {s w : State} {h : Handover} {code : ResultCode} {l : List Part}
    (he : exec i s = finish s ((w.setAttach { s.attach with inHand := none }).reply h.record.issue code))
    (ha : w.attach = s.attach) (hp : w.path = s.path) (hdue : w.report.status.due = s.report.status.due)
    (hchanged : w.report.status.changed = s.report.status.changed) (hw : OnlyChanges l s w) :
    Completes i s fun t =>
      Posts h code s t ∧ OwnQueueOnly s t ∧ t.ownQueued .record = s.ownQueued .record ∧
        t.report =
          { w.report with
            status := { w.report.status with due := t.report.status.due, changed := t.report.status.changed } } ∧
        OnlyChanges ([.attach, .path] ++ l) s t ∧ MarksStatus s t := by
  rw [← ha] at he
  have hposts : Posts h code w _ := State.reply_posts w h code
  have hrecord : State.ownQueued _ .record = w.ownQueued .record :=
    reply_ownQueued_record (w.setAttach { w.attach with inHand := none }) h.record.issue code
  have hframe := reply_frame (w.setAttach { w.attach with inHand := none }) h.record.issue code
  obtain ⟨-, hreport, hown⟩ := reply_rest (w.setAttach { w.attach with inHand := none }) h.record.issue code
  generalize (w.setAttach { w.attach with inHand := none }).reply h.record.issue code = t at *
  simp only [State.setAttach_report, State.setAttach_path] at hreport hown
  obtain ⟨u, hu, hmarks, hrest, hmarked⟩ :=
    finish_only_marks (s := s) (t := t) (by rw [hreport, hdue]) (by rw [hreport, hchanged])
  have hattach : u.attach = t.attach := hrest .attach (by simp)
  have hpath : u.path = t.path := hrest .path (by simp)
  refine ⟨u, he.trans hu, ?posts, ?own, ?record, by rwa [hreport] at hmarked, ?frame, hmarks⟩
  case posts => simpa only [Posts, State.ownQueued, hattach, hpath, ha, hp] using hposts
  case own => simpa only [OwnQueueOnly, hpath, hp] using hown
  case record => simpa only [State.ownQueued, hpath, hp] using hrecord
  case frame =>
    exact (hw.mono (by simp +contextual)).trans
      (((setAttach_frame w _).mono (by simp)).trans
        ((hframe.mono (by simp +contextual)).trans (hrest.mono (by simp))))

/-! ## ACK_REPORTS (R139) -/

/-- The report writer after a valid count: the index moved, the record and the status writer released (R139, R142). -/
def Report.acknowledged (r : Report) (count : BitVec 32) : Report :=
  { r with consume := count, held := false, status := { r.status with suspended := false } }

theorem ackReports_of_valid {count : BitVec 32} {s : State}
    (h : (count - s.report.consume).toNat ≤ (s.report.produce - s.report.consume).toNat) :
    s.ackReports count = (s.setReport (s.report.acknowledged count), .done) :=
  if_pos (BitVec.le_def.2 h)

theorem ackReports_of_not_valid {count : BitVec 32} {s : State}
    (h : ¬(count - s.report.consume).toNat ≤ (s.report.produce - s.report.consume).toNat) :
    s.ackReports count = (s, .badArgument) :=
  if_neg fun hle => h (BitVec.le_def.1 hle)

/-- ACK_REPORTS in hand is its effect on the report writer, the result posted. -/
theorem exec_ackReports {count : BitVec 32} {s : State} {h : Handover} (hh : InHand (.ackReports count) s h) :
    exec (.ackReports count) s =
      finish s (State.posting h (State.ackReports count ((s.quiet).setAttach { s.attach with inHand := none }))) := by
  obtain ⟨hhand, hcommand⟩ := hh
  have harm : exec (.ackReports count) s = execAckReports count s := rfl
  rw [harm, execAckReports, carryOut_of_inHand hhand hcommand]

/-- A valid count acknowledges the records below it, and DONE is posted (R139). -/
theorem completes_ackReports_of_valid {count : BitVec 32} {s : State} {h : Handover}
    (hh : InHand (.ackReports count) s h)
    (hvalid : (count - s.report.consume).toNat ≤ (s.report.produce - s.report.consume).toNat) :
    Completes (.ackReports count) s fun t =>
      Posts h .done s t ∧ OwnQueueOnly s t ∧ t.ownQueued .record = s.ownQueued .record ∧
        t.report =
          { s.report.acknowledged count with
            status :=
              { (s.report.acknowledged count).status with
                due := t.report.status.due, changed := t.report.status.changed } } ∧
        OnlyChanges [.attach, .path, .report, .statusWriter] s t ∧ MarksStatus s t := by
  have hexec := exec_ackReports hh
  rw [ackReports_of_valid (s := (s.quiet).setAttach { s.attach with inHand := none }) hvalid] at hexec
  exact completes_of_reply_of_marks (w := (s.quiet).setReport (s.report.acknowledged count)) hexec rfl rfl rfl rfl
    (((quiet_frame s).mono (by simp)).trans (setReport_frame _ _))

/-- A count that is not valid is refused with BAD_ARGUMENT (R139). -/
theorem onlyPosts_ackReports_of_not_valid {count : BitVec 32} {s : State} {h : Handover}
    (hh : InHand (.ackReports count) s h)
    (hinvalid : ¬(count - s.report.consume).toNat ≤ (s.report.produce - s.report.consume).toNat) :
    OnlyPosts (.ackReports count) h .badArgument s := by
  have hexec := exec_ackReports hh
  rw [ackReports_of_not_valid (s := (s.quiet).setAttach { s.attach with inHand := none }) hinvalid] at hexec
  obtain ⟨t, ht, hposts, hown, -, honly, hmarks⟩ :=
    completes_of_reply (w := s.quiet) hexec rfl rfl rfl (quiet_frame s)
  exact ⟨t, ht, hposts, hown, honly, hmarks⟩

/-- Settles O37: the report writer after the command gives the attention line (`attention_iff`), the ring's room
(`ringRoom_iff`) and, the consume index being a status field, the status write. -/
theorem ackReportsMovesTheConsumeIndex : Obligations.AckReportsMovesTheConsumeIndex := by
  unfold Obligations.AckReportsMovesTheConsumeIndex
  intro count s h hh
  split
  next hvalid =>
    obtain ⟨t, ht, hposts, hown, hrecord, hreport, honly, hmarks⟩ := completes_ackReports_of_valid hh hvalid
    have hproduce : t.report.produce = s.report.produce := by rw [hreport]; rfl
    have hconsume : t.report.consume = count := by rw [hreport]; rfl
    have ⟨hattach, _, _⟩ := hposts
    have hstate : t.attach.state = s.attach.state := by rw [hattach]
    have hcurrent : t.attach.current = s.attach.current := by rw [hattach]
    refine ⟨t, ht, hposts, hown, hrecord, hreport, fun hne => ?due, ?attention, ?room, honly, hmarks⟩
    case due => exact hmarks.due_of_status_ne (status_ne_of_consume_ne (by rwa [hconsume]))
    case attention => rw [attention_iff, hstate, hcurrent, hproduce, hconsume]
    case room => rw [ringRoom_iff, hproduce, hconsume]
  next hinvalid => exact onlyPosts_ackReports_of_not_valid hh hinvalid

end Sys2Proof.Machine
end
